-- ==== Sys2Proof/Word.lean ====
section
/-! DEFINITION. The word types of the core: bytes, 16-bit words and 12-bit addresses of opcodes (spec 00_scope R10, R11). -/

namespace Sys2Proof

/-- A general register, a timer, a memory cell, the immediate `kk` (R8, R20, R32). -/
abbrev Byte := BitVec 8

/-- `I`, `PC`, a call-stack slot, an opcode (R24, R26, R28, R90). -/
abbrev Word := BitVec 16

/-- The 12-bit address immediate `nnn` (R11, R92). -/
abbrev Imm12 := BitVec 12

/-- The low nibble `n` of Dxyn, a number of sprite rows (R11, R92). -/
abbrev Nibble := BitVec 4

/-- One framebuffer row of 64 one-bit pixels: bit `px` is the pixel of column `px` (R34). -/
abbrev PixelRow := BitVec 64

/-- The 80 bytes of the parameter FONT (R9, R33). -/
abbrev Font := Vector Byte 80

end Sys2Proof
end

