-- ==== Sys2Proof/Config.lean ====
section
/-! DEFINITION. What is fixed for the machine: the parameters of 00_scope R8, the default font of R33, and the free draw
of R9 and R178. -/

namespace Sys2Proof.Config

/-- 4096 bytes of memory (R8, R32). -/
def memSize : Nat := 4096

/-- First address of the font region [0x050, 0x0A0) (R8, R33). -/
def fontBase : Nat := 0x050

/-- 16 glyphs of 5 bytes (R9, R33). -/
def fontSize : Nat := 80

/-- PROG_BASE, the load address (R8, R252). -/
def progBase : Nat := 0x200

/-- ROM_MAX, 4096 - 0x200 bytes (R8, R252). -/
def romMax : Nat := 3584

/-- GRID_W, against which `V[x]` of Dxyn is reduced (R210). -/
def gridW : Nat := 64

/-- GRID_H, against which `V[y]` of Dxyn is reduced (R210). -/
def gridH : Nat := 32

/-- The default table of R33 for the parameter FONT: glyph `d` is the bytes `5 d .. 5 d + 4`. PRESUMED (the spec's own
default, from general knowledge, G1): log 4. -/
def defaultFontBytes : List Byte :=
  [0xF0, 0x90, 0x90, 0x90, 0xF0,   0x20, 0x60, 0x20, 0x20, 0x70,
   0xF0, 0x10, 0xF0, 0x80, 0xF0,   0xF0, 0x10, 0xF0, 0x10, 0xF0] ++
  [0x90, 0x90, 0xF0, 0x10, 0x10,   0xF0, 0x80, 0xF0, 0x10, 0xF0,
   0xF0, 0x80, 0xF0, 0x90, 0xF0,   0xF0, 0x10, 0x20, 0x40, 0x40] ++
  [0xF0, 0x90, 0xF0, 0x90, 0xF0,   0xF0, 0x90, 0xF0, 0x10, 0xF0,
   0xF0, 0x90, 0xF0, 0x90, 0x90,   0xE0, 0x90, 0xE0, 0x90, 0xE0] ++
  [0xF0, 0x80, 0x80, 0x80, 0xF0,   0xE0, 0x90, 0x90, 0x90, 0xE0,
   0xF0, 0x80, 0xF0, 0x80, 0xF0,   0xF0, 0x80, 0xF0, 0x80, 0x80]

/-- The default of FONT, which `State.reset` takes; the machine itself takes FONT as an argument (R9): `State.font`. -/
def defaultFont : Font := ⟨⟨defaultFontBytes⟩, rfl⟩

/-- The `k`-th draw that no host operation has named: a free value under no law (R9, R178, D12).
No body: nothing can prove a value of it. Log 2. -/
opaque freeDraw : Nat → Byte

end Sys2Proof.Config
end

