-- ==== Sys2Proof/Syntax.lean ====
section
/-! DEFINITION. The instructions: one constructor for each row of spec/opcode_table.json (30_encoding R94), named by the
row's pattern, which is the instruction's normative name (R106). -/

namespace Sys2Proof

/-- A register index, the opcode field `x` or `y` (R11, R20). -/
abbrev Reg := Fin 16

/-- The flag register, `V[0xF]` (R21). -/
abbrev Reg.VF : Reg := 15

/-- The 34 patterns of R94 and the no-operation of R103, R127. -/
inductive Instr where
  /-- CLS: clear the framebuffer (R212). -/
  | op00E0
  /-- RET: return (R144). -/
  | op00EE
  /-- JP nnn: jump (R145). -/
  | op1nnn (nnn : Imm12)
  /-- CALL nnn: call (R142). -/
  | op2nnn (nnn : Imm12)
  /-- SE Vx, kk: skip if equal (R147). -/
  | op3xkk (x : Reg) (kk : Byte)
  /-- SNE Vx, kk: skip if not equal (R148). -/
  | op4xkk (x : Reg) (kk : Byte)
  /-- SE Vx, Vy: skip if equal (R149). -/
  | op5xy0 (x y : Reg)
  /-- LD Vx, kk: load an immediate (R162). -/
  | op6xkk (x : Reg) (kk : Byte)
  /-- ADD Vx, kk: add an immediate, no flag (R163). -/
  | op7xkk (x : Reg) (kk : Byte)
  /-- LD Vx, Vy: copy (R164). -/
  | op8xy0 (x y : Reg)
  /-- OR Vx, Vy (R165). -/
  | op8xy1 (x y : Reg)
  /-- AND Vx, Vy (R166). -/
  | op8xy2 (x y : Reg)
  /-- XOR Vx, Vy (R167). -/
  | op8xy3 (x y : Reg)
  /-- ADD Vx, Vy: add with carry out (R168). -/
  | op8xy4 (x y : Reg)
  /-- SUB Vx, Vy (R169). -/
  | op8xy5 (x y : Reg)
  /-- SHR Vx: shift right in place; `y` is decoded and ignored (R170, R104). -/
  | op8xy6 (x y : Reg)
  /-- SUBN Vx, Vy: reverse subtract (R171). -/
  | op8xy7 (x y : Reg)
  /-- SHL Vx: shift left in place; `y` is decoded and ignored (R172, R104). -/
  | op8xyE (x y : Reg)
  /-- SNE Vx, Vy: skip if not equal (R150). -/
  | op9xy0 (x y : Reg)
  /-- LD I, nnn (R191). -/
  | opAnnn (nnn : Imm12)
  /-- JP V0, nnn (R146). -/
  | opBnnn (nnn : Imm12)
  /-- RND Vx, kk (R178). -/
  | opCxkk (x : Reg) (kk : Byte)
  /-- DRW Vx, Vy, n: XOR-draw `n` sprite rows (R214). -/
  | opDxyn (x y : Reg) (n : Nibble)
  /-- SKP Vx: skip if the key is down (R232). -/
  | opEx9E (x : Reg)
  /-- SKNP Vx: skip if the key is up (R233). -/
  | opExA1 (x : Reg)
  /-- LD Vx, DT (R234). -/
  | opFx07 (x : Reg)
  /-- LD Vx, K: wait for a key (R237). -/
  | opFx0A (x : Reg)
  /-- LD DT, Vx (R235). -/
  | opFx15 (x : Reg)
  /-- LD ST, Vx (R236). -/
  | opFx18 (x : Reg)
  /-- ADD I, Vx (R192). -/
  | opFx1E (x : Reg)
  /-- LD F, Vx: address of a font glyph (R193). -/
  | opFx29 (x : Reg)
  /-- LD B, Vx: store binary-coded decimal (R196). -/
  | opFx33 (x : Reg)
  /-- LD [I], Vx: store registers V0..Vx (R198). -/
  | opFx55 (x : Reg)
  /-- LD Vx, [I]: load registers V0..Vx (R200). -/
  | opFx65 (x : Reg)
  /-- The no-operation: any word that matches none of the 34 patterns, kept whole (R103, R127). -/
  | nop (op : Word)
  deriving DecidableEq, Repr

end Sys2Proof
end

