-- ==== Sys2Proof/WellFormed.lean ====
section
/-! DEFINITION. The opcode map of 30_encoding R94 as data (mask and match of each pattern), and which instruction terms
are well formed: the no-operation may carry only a word that matches no pattern (R103). -/

namespace Sys2Proof

/-- A row of R94: a word `op` matches the pattern when `op AND mask = value` (R93). -/
structure OpcodeRow where
  mask : Word
  value : Word
  deriving DecidableEq, Repr

/-- `op` matches the row's pattern (R93). -/
def OpcodeRow.matches (r : OpcodeRow) (op : Word) : Bool := op &&& r.mask == r.value

/-- Rows 1 to 34 of R94, in the table's order. -/
def opcodeMap : List OpcodeRow :=
  [⟨0xFFFF, 0x00E0⟩,
   ⟨0xFFFF, 0x00EE⟩,
   ⟨0xF000, 0x1000⟩,
   ⟨0xF000, 0x2000⟩,
   ⟨0xF000, 0x3000⟩,
   ⟨0xF000, 0x4000⟩] ++
  [⟨0xF00F, 0x5000⟩,
   ⟨0xF000, 0x6000⟩,
   ⟨0xF000, 0x7000⟩,
   ⟨0xF00F, 0x8000⟩,
   ⟨0xF00F, 0x8001⟩,
   ⟨0xF00F, 0x8002⟩] ++
  [⟨0xF00F, 0x8003⟩,
   ⟨0xF00F, 0x8004⟩,
   ⟨0xF00F, 0x8005⟩,
   ⟨0xF00F, 0x8006⟩,
   ⟨0xF00F, 0x8007⟩,
   ⟨0xF00F, 0x800E⟩] ++
  [⟨0xF00F, 0x9000⟩,
   ⟨0xF000, 0xA000⟩,
   ⟨0xF000, 0xB000⟩,
   ⟨0xF000, 0xC000⟩,
   ⟨0xF000, 0xD000⟩,
   ⟨0xF0FF, 0xE09E⟩] ++
  [⟨0xF0FF, 0xE0A1⟩,
   ⟨0xF0FF, 0xF007⟩,
   ⟨0xF0FF, 0xF00A⟩,
   ⟨0xF0FF, 0xF015⟩,
   ⟨0xF0FF, 0xF018⟩,
   ⟨0xF0FF, 0xF01E⟩] ++
  [⟨0xF0FF, 0xF029⟩,
   ⟨0xF0FF, 0xF033⟩,
   ⟨0xF0FF, 0xF055⟩,
   ⟨0xF0FF, 0xF065⟩]

/-- `op` matches one of the 34 patterns (R93). -/
def matchesPattern (op : Word) : Bool := opcodeMap.any (·.matches op)

/-- Every field of an instruction is as wide as its encoding, so the only ill-formed term is a no-operation whose word is
another instruction's (R103). -/
def Instr.wellFormed : Instr → Bool
  | .nop op => !matchesPattern op
  | .op00E0 => true
  | .op00EE => true
  | .op1nnn _ => true
  | .op2nnn _ => true
  | .op3xkk _ _ => true
  | .op4xkk _ _ => true
  | .op5xy0 _ _ => true
  | .op6xkk _ _ => true
  | .op7xkk _ _ => true
  | .op8xy0 _ _ => true
  | .op8xy1 _ _ => true
  | .op8xy2 _ _ => true
  | .op8xy3 _ _ => true
  | .op8xy4 _ _ => true
  | .op8xy5 _ _ => true
  | .op8xy6 _ _ => true
  | .op8xy7 _ _ => true
  | .op8xyE _ _ => true
  | .op9xy0 _ _ => true
  | .opAnnn _ => true
  | .opBnnn _ => true
  | .opCxkk _ _ => true
  | .opDxyn _ _ _ => true
  | .opEx9E _ => true
  | .opExA1 _ => true
  | .opFx07 _ => true
  | .opFx0A _ => true
  | .opFx15 _ => true
  | .opFx18 _ => true
  | .opFx1E _ => true
  | .opFx29 _ => true
  | .opFx33 _ => true
  | .opFx55 _ => true
  | .opFx65 _ => true

end Sys2Proof
end

