-- ==== Sys2Proof/Decode.lean ====
section
/-! DEFINITION. Decoding (30_encoding R91 to R97, R102, R103) and its inverse, the encoder, written from the same table.
Decoding a word is total: a word that matches no pattern is the no-operation. Only a byte sequence shorter than one
instruction is rejected, by name. -/

namespace Sys2Proof

/-! ### The fields of an opcode (R11) -/

/-- The family, `op[15:12]`. -/
def opF (op : Word) : Nibble := op.extractLsb' 12 4

/-- The field `x`, `op[11:8]`, as bits. -/
def opXBits (op : Word) : Nibble := op.extractLsb' 8 4

/-- The field `y`, `op[7:4]`, as bits. -/
def opYBits (op : Word) : Nibble := op.extractLsb' 4 4

/-- The field `n`, `op[3:0]`. -/
def opN (op : Word) : Nibble := op.extractLsb' 0 4

/-- The field `kk`, `op[7:0]`. -/
def opKk (op : Word) : Byte := op.extractLsb' 0 8

/-- The field `nnn`, `op[11:0]`. -/
def opNnn (op : Word) : Imm12 := op.extractLsb' 0 12

/-- The register a 4-bit field names (R20). -/
def regOfBits (b : Nibble) : Reg := ⟨b.toNat, b.isLt⟩

/-- The 4-bit field that names a register (R20). -/
def bitsOfReg (r : Reg) : Nibble := BitVec.ofNat 4 r.val

/-- The register named by `x`. -/
def opX (op : Word) : Reg := regOfBits (opXBits op)

/-- The register named by `y`. -/
def opY (op : Word) : Reg := regOfBits (opYBits op)

/-! ### The decoder (R93, R95) -/

/-- Family 0x0: 00E0 and 00EE are matched on all 16 bits (R95). -/
def decodeFamily0 (op : Word) : Instr :=
  if op = 0x00E0 then .op00E0
  else if op = 0x00EE then .op00EE
  else .nop op

/-- Family 0x8: the low nibble selects; 8, 9, 0xA to 0xD and 0xF are unmatched (R95). -/
def decodeFamily8 (op : Word) : Instr :=
  if opN op = 0x0 then .op8xy0 (opX op) (opY op)
  else if opN op = 0x1 then .op8xy1 (opX op) (opY op)
  else if opN op = 0x2 then .op8xy2 (opX op) (opY op)
  else if opN op = 0x3 then .op8xy3 (opX op) (opY op)
  else if opN op = 0x4 then .op8xy4 (opX op) (opY op)
  else if opN op = 0x5 then .op8xy5 (opX op) (opY op)
  else if opN op = 0x6 then .op8xy6 (opX op) (opY op)
  else if opN op = 0x7 then .op8xy7 (opX op) (opY op)
  else if opN op = 0xE then .op8xyE (opX op) (opY op)
  else .nop op

/-- Family 0xE: the whole low byte selects (R95). -/
def decodeFamilyE (op : Word) : Instr :=
  if opKk op = 0x9E then .opEx9E (opX op)
  else if opKk op = 0xA1 then .opExA1 (opX op)
  else .nop op

/-- Family 0xF: the whole low byte selects (R95). -/
def decodeFamilyF (op : Word) : Instr :=
  if opKk op = 0x07 then .opFx07 (opX op)
  else if opKk op = 0x0A then .opFx0A (opX op)
  else if opKk op = 0x15 then .opFx15 (opX op)
  else if opKk op = 0x18 then .opFx18 (opX op)
  else if opKk op = 0x1E then .opFx1E (opX op)
  else if opKk op = 0x29 then .opFx29 (opX op)
  else if opKk op = 0x33 then .opFx33 (opX op)
  else if opKk op = 0x55 then .opFx55 (opX op)
  else if opKk op = 0x65 then .opFx65 (opX op)
  else .nop op

/-- The instruction an opcode stands for: the top nibble selects a family (R93), literal digits match exactly (R95),
every other word is the no-operation (R103). -/
def decode (op : Word) : Instr :=
  if opF op = 0x0 then decodeFamily0 op
  else if opF op = 0x1 then .op1nnn (opNnn op)
  else if opF op = 0x2 then .op2nnn (opNnn op)
  else if opF op = 0x3 then .op3xkk (opX op) (opKk op)
  else if opF op = 0x4 then .op4xkk (opX op) (opKk op)
  else if opF op = 0x5 then (if opN op = 0x0 then .op5xy0 (opX op) (opY op) else .nop op)
  else if opF op = 0x6 then .op6xkk (opX op) (opKk op)
  else if opF op = 0x7 then .op7xkk (opX op) (opKk op)
  else if opF op = 0x8 then decodeFamily8 op
  else if opF op = 0x9 then (if opN op = 0x0 then .op9xy0 (opX op) (opY op) else .nop op)
  else if opF op = 0xA then .opAnnn (opNnn op)
  else if opF op = 0xB then .opBnnn (opNnn op)
  else if opF op = 0xC then .opCxkk (opX op) (opKk op)
  else if opF op = 0xD then .opDxyn (opX op) (opY op) (opN op)
  else if opF op = 0xE then decodeFamilyE op
  else decodeFamilyF op

/-- Why a byte sequence holds no instruction. -/
inductive DecodeReject where
  /-- Fewer than the two bytes every instruction has (R90). -/
  | truncated
  deriving DecidableEq, Repr

/-- The opcode of two consecutive bytes: the byte at the lower address is the high byte (R62). -/
def opcodeOfBytes (hi lo : Byte) : Word := hi ++ lo

/-- The first instruction of a byte sequence and the bytes after it (R62, R90). -/
def decodeBytes : List Byte → Except DecodeReject (Instr × List Byte)
  | hi :: lo :: rest => .ok (decode (opcodeOfBytes hi lo), rest)
  | _ => .error .truncated

/-- The low `nbits` bits of `w` as the 16-bit opcode, the bits above them zero. -/
def tableWord (nbits w : Nat) : Word := BitVec.ofNat 16 (w % 2 ^ nbits)

/-- A word in memory order: high byte first (R62). -/
def bytesOfWord (op : Word) : List Byte := [op.extractLsb' 8 8, op.extractLsb' 0 8]

/-- The instruction the decoder reads from a word numbered as spec/opcode_table.json numbers it. -/
def decodeTableWord (nbits w : Nat) : Option Instr :=
  match decodeBytes (bytesOfWord (tableWord nbits w)) with
  | .ok (i, _) => some i
  | .error _ => none

/-! ### The encoder (R91, R94) -/

/-- Four nibbles, most significant first: formats XY, XYN and X of R91. -/
def wordOfNibbles (f x y n : Nibble) : Word := f ++ x ++ y ++ n

/-- Family, register, byte: formats XKK and X of R91. -/
def wordOfXkk (f x : Nibble) (kk : Byte) : Word := f ++ x ++ kk

/-- Family, address: format NNN of R91. -/
def wordOfNnn (f : Nibble) (nnn : Imm12) : Word := f ++ nnn

/-- The opcode of an instruction (R91, R94). -/
def encode : Instr → Word
  | .op00E0 => 0x00E0
  | .op00EE => 0x00EE
  | .op1nnn nnn => wordOfNnn 0x1 nnn
  | .op2nnn nnn => wordOfNnn 0x2 nnn
  | .op3xkk x kk => wordOfXkk 0x3 (bitsOfReg x) kk
  | .op4xkk x kk => wordOfXkk 0x4 (bitsOfReg x) kk
  | .op5xy0 x y => wordOfNibbles 0x5 (bitsOfReg x) (bitsOfReg y) 0x0
  | .op6xkk x kk => wordOfXkk 0x6 (bitsOfReg x) kk
  | .op7xkk x kk => wordOfXkk 0x7 (bitsOfReg x) kk
  | .op8xy0 x y => wordOfNibbles 0x8 (bitsOfReg x) (bitsOfReg y) 0x0
  | .op8xy1 x y => wordOfNibbles 0x8 (bitsOfReg x) (bitsOfReg y) 0x1
  | .op8xy2 x y => wordOfNibbles 0x8 (bitsOfReg x) (bitsOfReg y) 0x2
  | .op8xy3 x y => wordOfNibbles 0x8 (bitsOfReg x) (bitsOfReg y) 0x3
  | .op8xy4 x y => wordOfNibbles 0x8 (bitsOfReg x) (bitsOfReg y) 0x4
  | .op8xy5 x y => wordOfNibbles 0x8 (bitsOfReg x) (bitsOfReg y) 0x5
  | .op8xy6 x y => wordOfNibbles 0x8 (bitsOfReg x) (bitsOfReg y) 0x6
  | .op8xy7 x y => wordOfNibbles 0x8 (bitsOfReg x) (bitsOfReg y) 0x7
  | .op8xyE x y => wordOfNibbles 0x8 (bitsOfReg x) (bitsOfReg y) 0xE
  | .op9xy0 x y => wordOfNibbles 0x9 (bitsOfReg x) (bitsOfReg y) 0x0
  | .opAnnn nnn => wordOfNnn 0xA nnn
  | .opBnnn nnn => wordOfNnn 0xB nnn
  | .opCxkk x kk => wordOfXkk 0xC (bitsOfReg x) kk
  | .opDxyn x y n => wordOfNibbles 0xD (bitsOfReg x) (bitsOfReg y) n
  | .opEx9E x => wordOfXkk 0xE (bitsOfReg x) 0x9E
  | .opExA1 x => wordOfXkk 0xE (bitsOfReg x) 0xA1
  | .opFx07 x => wordOfXkk 0xF (bitsOfReg x) 0x07
  | .opFx0A x => wordOfXkk 0xF (bitsOfReg x) 0x0A
  | .opFx15 x => wordOfXkk 0xF (bitsOfReg x) 0x15
  | .opFx18 x => wordOfXkk 0xF (bitsOfReg x) 0x18
  | .opFx1E x => wordOfXkk 0xF (bitsOfReg x) 0x1E
  | .opFx29 x => wordOfXkk 0xF (bitsOfReg x) 0x29
  | .opFx33 x => wordOfXkk 0xF (bitsOfReg x) 0x33
  | .opFx55 x => wordOfXkk 0xF (bitsOfReg x) 0x55
  | .opFx65 x => wordOfXkk 0xF (bitsOfReg x) 0x65
  | .nop op => op

/-- The bytes of an instruction in memory order (R62, R90). -/
def encodeBytes (i : Instr) : List Byte := bytesOfWord (encode i)

/-- The row of the opcode map an instruction belongs to (R94); the no-operation's row matches every word and is tested
last. -/
def rowOf : Instr → OpcodeRow
  | .op00E0 => ⟨0xFFFF, 0x00E0⟩
  | .op00EE => ⟨0xFFFF, 0x00EE⟩
  | .op1nnn _ => ⟨0xF000, 0x1000⟩
  | .op2nnn _ => ⟨0xF000, 0x2000⟩
  | .op3xkk _ _ => ⟨0xF000, 0x3000⟩
  | .op4xkk _ _ => ⟨0xF000, 0x4000⟩
  | .op5xy0 _ _ => ⟨0xF00F, 0x5000⟩
  | .op6xkk _ _ => ⟨0xF000, 0x6000⟩
  | .op7xkk _ _ => ⟨0xF000, 0x7000⟩
  | .op8xy0 _ _ => ⟨0xF00F, 0x8000⟩
  | .op8xy1 _ _ => ⟨0xF00F, 0x8001⟩
  | .op8xy2 _ _ => ⟨0xF00F, 0x8002⟩
  | .op8xy3 _ _ => ⟨0xF00F, 0x8003⟩
  | .op8xy4 _ _ => ⟨0xF00F, 0x8004⟩
  | .op8xy5 _ _ => ⟨0xF00F, 0x8005⟩
  | .op8xy6 _ _ => ⟨0xF00F, 0x8006⟩
  | .op8xy7 _ _ => ⟨0xF00F, 0x8007⟩
  | .op8xyE _ _ => ⟨0xF00F, 0x800E⟩
  | .op9xy0 _ _ => ⟨0xF00F, 0x9000⟩
  | .opAnnn _ => ⟨0xF000, 0xA000⟩
  | .opBnnn _ => ⟨0xF000, 0xB000⟩
  | .opCxkk _ _ => ⟨0xF000, 0xC000⟩
  | .opDxyn _ _ _ => ⟨0xF000, 0xD000⟩
  | .opEx9E _ => ⟨0xF0FF, 0xE09E⟩
  | .opExA1 _ => ⟨0xF0FF, 0xE0A1⟩
  | .opFx07 _ => ⟨0xF0FF, 0xF007⟩
  | .opFx0A _ => ⟨0xF0FF, 0xF00A⟩
  | .opFx15 _ => ⟨0xF0FF, 0xF015⟩
  | .opFx18 _ => ⟨0xF0FF, 0xF018⟩
  | .opFx1E _ => ⟨0xF0FF, 0xF01E⟩
  | .opFx29 _ => ⟨0xF0FF, 0xF029⟩
  | .opFx33 _ => ⟨0xF0FF, 0xF033⟩
  | .opFx55 _ => ⟨0xF0FF, 0xF055⟩
  | .opFx65 _ => ⟨0xF0FF, 0xF065⟩
  | .nop _ => ⟨0x0000, 0x0000⟩

end Sys2Proof
end

