-- ==== Sys2Proof/Machine/State.lean ====
section
/-! DEFINITION. The state of the core as plain data (10_state R20 to R49), the state after RESET (R45), and the reasons a
step can stop. -/

namespace Sys2Proof.Machine

/-- The six fault kinds, the values 1 to 6 of the FAULT register (60_exceptions R270, R271). A faulting operation is a
NEXT state with this recorded (R272), so these are state, not reasons to stop. -/
inductive FaultKind where
  /-- Code 1: fetch, Dxyn, Fx33, Fx55, Fx65 beyond address 4095. -/
  | outOfBounds
  /-- Code 2: LOAD of more than 3584 bytes. -/
  | romTooLarge
  /-- Code 3: 2nnn with SP = 16. -/
  | stackOverflow
  /-- Code 4: 00EE with SP = 0. -/
  | stackUnderflow
  /-- Code 5: raised by nothing (R277). -/
  | invalidRegister
  /-- Code 6: Ex9E and ExA1 with V[x] > 15; KEY_DOWN and KEY_UP with k > 15. -/
  | invalidKey
  deriving DecidableEq, Repr

/-- The five operations of the host (47_host_operations R250 to R256), as data. -/
inductive HostOp where
  /-- RESET (R251). -/
  | reset
  /-- LOAD(bytes), the ROM (R252). -/
  | load (bytes : List Byte)
  /-- KEY_DOWN(k) (R253); `k` is of a wider type than the 4-bit port, so that InvalidKey can be raised. Log 20. -/
  | keyDown (k : Nat)
  /-- KEY_UP(k) (R254). Log 20. -/
  | keyUp (k : Nat)
  /-- STEP(rnd) with its 8-bit draw (R256, R120). -/
  | step (rnd : Byte)
  deriving DecidableEq, Repr

/-- Where the host stands in its protocol (R257). The model's own, not a state of the core (R44). Log 3. -/
inductive HostPhase where
  /-- Before the first RESET: only RESET is permitted. -/
  | beforeReset
  /-- After a RESET, before LOAD and before the first STEP. -/
  | afterReset
  /-- After the one LOAD, before the first STEP. -/
  | loaded
  /-- After the first STEP. -/
  | stepping
  deriving DecidableEq, Repr

/-- Everything the spec gives the core (10_state R20 to R43), then the model's own fields for the operations' inputs. -/
structure State where
  /-- `V[0..15]` (R20, R21). -/
  v : Vector Byte 16
  /-- `I` (R24). -/
  i : Word
  /-- `PC` (R26). -/
  pc : Word
  /-- `STACK[0..15]` (R28). -/
  stack : Vector Word 16
  /-- `SP`, the number of return addresses held, 0 to 16 (R29). -/
  sp : Fin 17
  /-- The parameter FONT (R9, R33), an argument of the machine: no operation writes it, RESET copies it to memory. Log 4. -/
  font : Font
  /-- `MEM[0..4095]` (R32): the cells that differ from what an unlisted address reads as. Log 16. -/
  mem : List Host.Cell
  /-- `FB[0..31][0..63]` (R34): row `py`, bit `px`. -/
  fb : Vector PixelRow 32
  /-- `KEY[0..15]` (R36): true while the key is down. -/
  key : Vector Bool 16
  /-- `LATCH`: none or a key (R37, R38). -/
  latch : Option (Fin 16)
  /-- `DT` (R39). -/
  dt : Byte
  /-- `ST` (R39). -/
  st : Byte
  /-- `WAIT` (R41). -/
  wait : Bool
  /-- `FAULT`: none is 0, no fault (R43). -/
  fault : Option FaultKind
  /-- The model's own: the draw the host gives with the coming STEP, if it has named one (R9). Log 2. -/
  rnd : Option Byte
  /-- The model's own: how many draws Cxkk has taken; the index of the next free draw. Log 2. -/
  draws : Nat
  /-- The model's own: the host's next operations, first one first (R250, R257). Log 1. -/
  hostOps : List HostOp
  /-- The model's own: the host's place in its protocol (R257). Log 3. -/
  phase : HostPhase
  deriving DecidableEq, Repr

/-- Reasons the machine could stop for good with a fault of the model. -/
inductive Fault where
  /-- Raised by NOBODY: every fault kind of the spec is taken as a next state with FAULT set (R272, log 6), and no other
  stop exists. It stands only because the interface asks for a type of faults; safe. -/
  | neverRaised
  deriving DecidableEq, Repr

/-- Reasons a step has no meaning. -/
inductive Refusal where
  /-- An instruction without a meaning, rejected by name in `exec`. Safe. -/
  | notModelled (mnemonic : String)
  /-- Raised by `step` for any host operation but RESET before the first RESET (R257 (1), U12). Safe. -/
  | beforeReset
  /-- Raised by `step` for a LOAD after another LOAD or after a STEP of the same RESET (R257 (2), D17). Safe. -/
  | loadOutOfProtocol
  deriving DecidableEq, Repr

/-- The state right after RESET (R45, R300, R301) of a machine with the given FONT. The last four fields are the model's own
(logs 1 to 3). -/
def State.resetWith (font : Font) : State where
  font := font
  v := Vector.replicate 16 0x00
  i := 0x0000
  pc := 0x0200
  stack := Vector.replicate 16 0x0000
  sp := 0
  mem := []
  fb := Vector.replicate 32 0
  key := Vector.replicate 16 false
  latch := none
  dt := 0x00
  st := 0x00
  wait := false
  fault := none
  rnd := none
  draws := 0
  hostOps := []
  phase := .afterReset

/-- The state right after RESET of the machine with the default FONT (R33). PRESUMED: log 4. -/
def State.reset : State := State.resetWith Config.defaultFont

end Sys2Proof.Machine
end

