-- ==== Sys2Proof/Machine/Ops.lean ====
section
/-! DEFINITION. The named operations over registers, memory and the call stack, taking a fault, and the one way out of a
fault, RESET. -/

namespace Sys2Proof.Machine

/-- What an operation or an instruction answers. -/
abbrev Result := Host.Outcome State Fault Refusal

/-! ### Updates of one field -/

/-- `V[r] <- b` (R12). -/
def State.setReg (s : State) (r : Reg) (b : Byte) : State := { s with v := s.v.set r.val b }

/-- All sixteen general registers at once. -/
def State.setRegs (s : State) (v : Vector Byte 16) : State := { s with v := v }

/-- `I <- w`. -/
def State.setI (s : State) (w : Word) : State := { s with i := w }

/-- `pc <- t` (R12). -/
def State.setPc (s : State) (t : Word) : State := { s with pc := t }

/-- The memory. -/
def State.setMem (s : State) (m : List Host.Cell) : State := { s with mem := m }

/-- The framebuffer. -/
def State.setFb (s : State) (fb : Vector PixelRow 32) : State := { s with fb := fb }

/-- `LATCH <- k`. -/
def State.setLatch (s : State) (k : Option (Fin 16)) : State := { s with latch := k }

/-- `KEY[k] <- d`. -/
def State.setKey (s : State) (k : Fin 16) (d : Bool) : State := { s with key := s.key.set k.val d }

/-- `DT <- b`. -/
def State.setDt (s : State) (b : Byte) : State := { s with dt := b }

/-- `ST <- b`. -/
def State.setSt (s : State) (b : Byte) : State := { s with st := b }

/-- `FAULT <- k`. -/
def State.setFault (s : State) (k : FaultKind) : State := { s with fault := some k }

/-- A slot of the call stack and the stack pointer. -/
def State.setStack (s : State) (stack : Vector Word 16) (sp : Fin 17) : State := { s with stack := stack, sp := sp }

/-- The number of draws taken. -/
def State.setDraws (s : State) (n : Nat) : State := { s with draws := n }

/-- The draw named for the coming STEP. -/
def State.setRnd (s : State) (r : Option Byte) : State := { s with rnd := r }

/-- The host's next operations. -/
def State.setHostOps (s : State) (ops : List HostOp) : State := { s with hostOps := ops }

/-- The host's place in its protocol. -/
def State.setPhase (s : State) (p : HostPhase) : State := { s with phase := p }

/-! ### Registers -/

/-- `V[r]` (R12). -/
def State.reg (s : State) (r : Reg) : Byte := s.v[r.val]

/-- `pcn = pc0 + 2`, the address of the next sequential instruction (R122). -/
def State.pcn (s : State) : Word := s.pc + 2

/-- Leave `PC = pcn` (R122, R26). -/
def State.advance (s : State) : State := s.setPc s.pcn

/-- A skip: `pc <- pcn + 2` when the condition holds, else `pc <- pcn` (R140). -/
def State.skipIf (s : State) (c : Bool) : State := s.setPc (if c then s.pcn + 2 else s.pcn)

/-- The draw of this STEP: what the host named, else a free value (R9, R178). Log 2. -/
def State.draw (s : State) : Byte := s.rnd.getD (Config.freeDraw s.draws)

/-! ### Memory (R32, R33, R60 to R70) -/

/-- What an unlisted address reads as: the contents after RESET, zero but for FONT at 0x050 (R33, R45, R61). -/
def Memory.initial (font : Font) (a : Nat) : Byte :=
  if Config.fontBase ≤ a ∧ a < Config.fontBase + Config.fontSize then (font[a - Config.fontBase]?).getD 0 else 0

/-- `MEM[a]`, without any check (R12). -/
def Memory.read (font : Font) : List Host.Cell → Nat → Byte
  | [], a => Memory.initial font a
  | (c, d) :: m, a => if c = a then d else Memory.read font m a

/-- The list without its entry for `a`. -/
def Memory.erase (m : List Host.Cell) (a : Nat) : List Host.Cell := m.filter fun c => c.1 != a

/-- An entry put in before the first larger address. -/
def Memory.insert (a : Nat) (b : Byte) : List Host.Cell → List Host.Cell
  | [] => [(a, b)]
  | (c, d) :: m => if a < c then (a, b) :: (c, d) :: m else (c, d) :: Memory.insert a b m

/-- `MEM[a] <- b`, without any check, keeping the canonical form: no entry is listed that reads as unlisted. -/
def Memory.write (font : Font) (m : List Host.Cell) (a : Nat) (b : Byte) : List Host.Cell :=
  if b = Memory.initial font a then Memory.erase m a else Memory.insert a b (Memory.erase m a)

/-- The bytes of a list to `a`, `a + 1`, ... (R63). -/
def Memory.writeBytes (font : Font) (m : List Host.Cell) (a : Nat) : List Byte → List Host.Cell
  | [] => m
  | b :: bs => Memory.writeBytes font (Memory.write font m a b) (a + 1) bs

/-- The canonical form from address `lo` up: addresses strictly rising and below 4096, no entry equal to what an unlisted
address reads as. -/
def Memory.wfFrom (font : Font) (lo : Nat) : List Host.Cell → Bool
  | [] => true
  | (a, b) :: m =>
    decide (lo ≤ a) && decide (a < Config.memSize) && decide (b ≠ Memory.initial font a) && Memory.wfFrom font (a + 1) m

/-- The canonical form of memory. -/
def Memory.wf (font : Font) (m : List Host.Cell) : Bool := Memory.wfFrom font 0 m

/-- `MEM[a]` in a state (R12). -/
def State.byteAt (s : State) (a : Nat) : Byte := Memory.read s.font s.mem a

/-- `MEM[a], ..., MEM[a + n - 1]` (R63). -/
def State.bytesAt (s : State) (a n : Nat) : List Byte := (List.range n).map fun k => s.byteAt (a + k)

/-- Store bytes at `a` upward (R63); the caller has checked the bound. -/
def State.storeBytes (s : State) (a : Nat) (bs : List Byte) : State := s.setMem (Memory.writeBytes s.font s.mem a bs)

/-! ### The call stack (R28 to R30) -/

/-- `Push(a)` (R141); none is StackOverflow. -/
def State.push (s : State) (a : Word) : Option State :=
  if h : s.sp.val < 16 then some (s.setStack (s.stack.set s.sp.val a) ⟨s.sp.val + 1, by omega⟩) else none

/-- `Pop()` (R143): the top of the stack, whose slot keeps its value; none is StackUnderflow. -/
def State.pop (s : State) : Option (Word × State) :=
  if h : 0 < s.sp.val then
    some (s.stack[s.sp.val - 1], s.setStack s.stack ⟨s.sp.val - 1, by omega⟩)
  else none

/-! ### Taking a fault, and leaving it -/

/-- `raise E` (R272): `FAULT <- E` and nothing else; PC stays at the faulting instruction. Log 6. -/
def raise (k : FaultKind) (s : State) : Result := .next (s.setFault k)

/-- RESET (R251), the only way out of a fault (R274): every piece of the core's state takes its reset value. The
parameter FONT is what RESET copies; the host's remaining operations and the index of the free draws are no state of the core
and stay. Log 21. -/
def State.resetCore (s : State) : State := ((State.resetWith s.font).setHostOps s.hostOps).setDraws s.draws

end Sys2Proof.Machine
end

