-- ==== Sys2Proof/Machine/Operands.lean ====
section
/-! DEFINITION. The operand forms: immediates (30_encoding R92), the one addressing mode `I + k` (43_index_memory R190), the
register block `V[0..x]` (R198, R200), decimal digits (R196) and a key number (R231). -/

namespace Sys2Proof.Machine

/-- `zext_16(nnn)` (R92). -/
def addressOf (nnn : Imm12) : Word := nnn.setWidth 16

/-- `zext_16(b)` of a register's value. -/
def widen (b : Byte) : Word := b.setWidth 16

/-- The effective address `I + k`, a natural number without wrap-around (R12, R13, R190). -/
def State.effAddr (s : State) (k : Nat) : Nat := s.i.toNat + k

/-- `V[0], ..., V[x]` (R198). -/
def State.firstRegs (s : State) (x : Reg) : List Byte := s.v.toList.take (x.val + 1)

/-- `V[k] <- MEM[a + k]` for `k` in `0 .. x` (R200). -/
def State.loadRegs (s : State) (x : Reg) (a : Nat) : State :=
  s.setRegs (Vector.ofFn fun k : Fin 16 => if k ≤ x then s.byteAt (a + k.val) else s.reg k)

/-- Hundreds, tens and ones of a byte (R196). -/
def bcdDigits (b : Byte) : List Byte :=
  [BitVec.ofNat 8 (b.toNat / 100), BitVec.ofNat 8 (b.toNat / 10 % 10), BitVec.ofNat 8 (b.toNat % 10)]

/-- The address `0x050 + 5 * b` of a font glyph; the whole byte is used (R193). -/
def glyphAddress (b : Byte) : Word := BitVec.ofNat 16 (Config.fontBase + 5 * b.toNat)

/-- `IsDown(k)` (R231): the key's flag; none is InvalidKey, a number above 15. -/
def State.isDown (s : State) (k : Byte) : Option Bool :=
  if h : k.toNat < 16 then some s.key[k.toNat] else none

end Sys2Proof.Machine
end

