-- ==== Sys2Proof/Machine/ControlFlow.lean ====
section
/-! DEFINITION. The meanings of the control transfers (41_control_flow) and of the no-operation (40_step_cycle R127). Each is
the execute phase of a STEP: it starts from the state with `PC = pc0` and leaves PC as R26 says. -/

namespace Sys2Proof.Machine

/-- 00EE, RET (R144): `pc <- Pop()`. -/
def exec00EE (s : State) : Result :=
  match s.pop with
  | none => raise .stackUnderflow s
  | some (a, t) => .next (t.setPc a)

/-- 1nnn, JP nnn (R145). -/
def exec1nnn (nnn : Imm12) (s : State) : Result := .next (s.setPc (addressOf nnn))

/-- 2nnn, CALL nnn (R142): `Push(pcn)`, then `pc <- nnn`. -/
def exec2nnn (nnn : Imm12) (s : State) : Result :=
  match s.push s.pcn with
  | none => raise .stackOverflow s
  | some t => .next (t.setPc (addressOf nnn))

/-- 3xkk, SE Vx, kk (R147). -/
def exec3xkk (x : Reg) (kk : Byte) (s : State) : Result := .next (s.skipIf (s.reg x == kk))

/-- 4xkk, SNE Vx, kk (R148). -/
def exec4xkk (x : Reg) (kk : Byte) (s : State) : Result := .next (s.skipIf (s.reg x != kk))

/-- 5xy0, SE Vx, Vy (R149). -/
def exec5xy0 (x y : Reg) (s : State) : Result := .next (s.skipIf (s.reg x == s.reg y))

/-- 9xy0, SNE Vx, Vy (R150). -/
def exec9xy0 (x y : Reg) (s : State) : Result := .next (s.skipIf (s.reg x != s.reg y))

/-- Bnnn, JP V0, nnn (R146): the sum is not reduced to 12 bits. -/
def execBnnn (nnn : Imm12) (s : State) : Result := .next (s.setPc (addressOf nnn + widen (s.reg 0)))

/-- Any unmatched word (R127): `pc <- pcn`. -/
def execNop (_op : Word) (s : State) : Result := .next s.advance

end Sys2Proof.Machine
end

