-- ==== Sys2Proof/Machine/Flags.lean ====
section
/-! DEFINITION. The flag results of family 0x8 and of Dxyn, and the order in which a flag and a result are written
(42_register_alu R161, R168 to R172, 44_display R214). -/

namespace Sys2Proof.Machine

/-- A flag value, 1 or 0. -/
def flagOf (c : Bool) : Byte := if c then 1 else 0

/-- Carry out of bit 7: 1 if the sum exceeds 255 (R168). -/
def carryFlag (a b : Byte) : Byte := flagOf (decide (255 < a.toNat + b.toNat))

/-- 1 if `a > b`, strictly, unsigned (R169, R171). -/
def greaterFlag (a b : Byte) : Byte := flagOf (decide (b.toNat < a.toNat))

/-- Bit 0, shifted out by a right shift (R170). -/
def shiftedOutRight (a : Byte) : Byte := flagOf (a.getLsbD 0)

/-- Bit 7, shifted out by a left shift (R172). -/
def shiftedOutLeft (a : Byte) : Byte := flagOf (a.getLsbD 7)

/-- VF first, `V[x]` second: with `x = 0xF` the result wins (R161). Log 8. -/
def State.writeFlagThenReg (s : State) (flag : Byte) (x : Reg) (b : Byte) : State := (s.setReg Reg.VF flag).setReg x b

end Sys2Proof.Machine
end

