-- ==== Sys2Proof/Machine/Framebuffer.lean ====
section
/-! DEFINITION. The framebuffer primitives: a pixel, Clear and DrawSprite (44_display R210 to R213). -/

namespace Sys2Proof.Machine

/-- `FB[py][px]` (R34); off outside the grid. -/
def pixelOf (fb : Vector PixelRow 32) (py px : Nat) : Bool := (fb[py]?.getD 0).getLsbD px

/-- `FB[py][px]` of a state. -/
def State.pixel (s : State) (py px : Nat) : Bool := pixelOf s.fb py px

/-- `FB[py][px] <- FB[py][px] XOR 1` (R35); nothing outside the grid. -/
def flipPixel (fb : Vector PixelRow 32) (py px : Nat) : Vector PixelRow 32 :=
  fb.setIfInBounds py (fb[py]?.getD 0 ^^^ (1#64 <<< px))

/-- `Clear()` (R211). -/
def clearedFb : Vector PixelRow 32 := Vector.replicate 32 0

/-- One sprite bit: row `i`, column `j`, `j = 0` is bit 7 of the byte (R213). A clear bit and a clipped bit do nothing. -/
def drawBit (x0 y0 i : Nat) (b : Byte) (d : Vector PixelRow 32 × Bool) (j : Nat) : Vector PixelRow 32 × Bool :=
  if b.getLsbD (7 - j) ∧ x0 + j < Config.gridW ∧ y0 + i < Config.gridH then
    (flipPixel d.1 (y0 + i) (x0 + j), d.2 || pixelOf d.1 (y0 + i) (x0 + j))
  else d

/-- One sprite row: its eight bits, most significant first (R213). -/
def drawRow (x0 y0 i : Nat) (b : Byte) (d : Vector PixelRow 32 × Bool) : Vector PixelRow 32 × Bool :=
  [0, 1, 2, 3, 4, 5, 6, 7].foldl (drawBit x0 y0 i b) d

/-- The sprite rows from row `i` on (R213). -/
def drawRows (x0 y0 : Nat) : Nat → List Byte → Vector PixelRow 32 × Bool → Vector PixelRow 32 × Bool
  | _, [], d => d
  | i, b :: bs, d => drawRows x0 y0 (i + 1) bs (drawRow x0 y0 i b d)

/-- `DrawSprite(vx, vy, bytes)` (R213): the new framebuffer and whether a set, unclipped bit met a pixel that was on. Only
the anchor wraps. -/
def drawSprite (fb : Vector PixelRow 32) (vx vy : Byte) (bytes : List Byte) : Vector PixelRow 32 × Bool :=
  drawRows (vx.toNat % Config.gridW) (vy.toNat % Config.gridH) 0 bytes (fb, false)

end Sys2Proof.Machine
end

