-- ==== Sys2Proof/Machine/Display.lean ====
section
/-! DEFINITION. The meanings of the display instructions (44_display). -/

namespace Sys2Proof.Machine

/-- 00E0, CLS (R212). -/
def exec00E0 (s : State) : Result := .next (s.setFb clearedFb).advance

/-- The sprite rows of Dxyn: `MEM[I], ..., MEM[I+n-1]` (R214). -/
def State.spriteRows (s : State) (n : Nibble) : List Byte := s.bytesAt (s.effAddr 0) n.toNat

/-- Dxyn, DRW Vx, Vy, n (R214): OutOfBounds iff `n ≥ 1` and `I + n - 1 ≥ 4096`; all `n` bytes are read, clipped rows too
(D15); VF is always written. -/
def execDxyn (x y : Reg) (n : Nibble) (s : State) : Result :=
  if 1 ≤ n.toNat ∧ Config.memSize ≤ s.effAddr (n.toNat - 1) then raise .outOfBounds s
  else
    .next ((s.setFb (drawSprite s.fb (s.reg x) (s.reg y) (s.spriteRows n)).1).setReg Reg.VF
      (flagOf (drawSprite s.fb (s.reg x) (s.reg y) (s.spriteRows n)).2)).advance

end Sys2Proof.Machine
end

