-- ==== Sys2Proof/Machine/IndexMemory.lean ====
section
/-! DEFINITION. The meanings of the index-register and memory instructions (43_index_memory). All of an instruction's
addresses are checked before any effect (20_memory R66); every instruction here leaves `PC = pcn` and writes no flag. -/

namespace Sys2Proof.Machine

/-- Annn, LD I, nnn (R191). -/
def execAnnn (nnn : Imm12) (s : State) : Result := .next (s.setI (addressOf nnn)).advance

/-- Fx1E, ADD I, Vx (R192): modulo 65536, no flag. -/
def execFx1E (x : Reg) (s : State) : Result :=
  .next (s.setI (BitVec.ofNat 16 (s.i.toNat + (s.reg x).toNat))).advance

/-- Fx29, LD F, Vx (R193). -/
def execFx29 (x : Reg) (s : State) : Result := .next (s.setI (glyphAddress (s.reg x))).advance

/-- Fx33, LD B, Vx (R196): the digits to `MEM[I], MEM[I+1], MEM[I+2]`. -/
def execFx33 (x : Reg) (s : State) : Result :=
  if Config.memSize ≤ s.effAddr 2 then raise .outOfBounds s
  else .next (s.storeBytes (s.effAddr 0) (bcdDigits (s.reg x))).advance

/-- Fx55, LD [I], Vx (R198): `V[0..x]` to `MEM[I..I+x]`; I stays. -/
def execFx55 (x : Reg) (s : State) : Result :=
  if Config.memSize ≤ s.effAddr x.val then raise .outOfBounds s
  else .next (s.storeBytes (s.effAddr 0) (s.firstRegs x)).advance

/-- Fx65, LD Vx, [I] (R200): `MEM[I..I+x]` to `V[0..x]`; I stays. -/
def execFx65 (x : Reg) (s : State) : Result :=
  if Config.memSize ≤ s.effAddr x.val then raise .outOfBounds s
  else .next (s.loadRegs x (s.effAddr 0)).advance

end Sys2Proof.Machine
end

