-- ==== Sys2Proof/Machine/KeypadTimers.lean ====
section
/-! DEFINITION. The meanings of the keypad and timer instructions (45_keypad_timers). The WAIT flag and the tick of both
timers are written by the STEP after the execute phase (40_step_cycle R128, R129; Machine/Cycle.lean). -/

namespace Sys2Proof.Machine

/-- Ex9E, SKP Vx (R232): InvalidKey iff `V[x] > 15`. -/
def execEx9E (x : Reg) (s : State) : Result :=
  match s.isDown (s.reg x) with
  | none => raise .invalidKey s
  | some d => .next (s.skipIf d)

/-- ExA1, SKNP Vx (R233): InvalidKey iff `V[x] > 15`. -/
def execExA1 (x : Reg) (s : State) : Result :=
  match s.isDown (s.reg x) with
  | none => raise .invalidKey s
  | some d => .next (s.skipIf (!d))

/-- Fx07, LD Vx, DT (R234): DT before this STEP's tick. -/
def execFx07 (x : Reg) (s : State) : Result := .next (s.setReg x s.dt).advance

/-- Fx0A, LD Vx, K (R237): with no key latched PC stays at this instruction; else the latched key goes to `V[x]` and the
latch is cleared. -/
def execFx0A (x : Reg) (s : State) : Result :=
  match s.latch with
  | none => .next s
  | some k => .next ((s.setReg x (BitVec.ofNat 8 k.val)).setLatch none).advance

/-- Fx15, LD DT, Vx (R235). -/
def execFx15 (x : Reg) (s : State) : Result := .next (s.setDt (s.reg x)).advance

/-- Fx18, LD ST, Vx (R236). -/
def execFx18 (x : Reg) (s : State) : Result := .next (s.setSt (s.reg x)).advance

end Sys2Proof.Machine
end

