-- ==== Sys2Proof/Machine/RegisterAlu.lean ====
section
/-! DEFINITION. The meanings of the register loads, arithmetic, logic, shifts and the random draw (42_register_alu). Sources
are read from the state at the start of the STEP (R160); every instruction here leaves `PC = pcn`. -/

namespace Sys2Proof.Machine

/-- 6xkk, LD Vx, kk (R162). -/
def exec6xkk (x : Reg) (kk : Byte) (s : State) : Result := .next (s.setReg x kk).advance

/-- 7xkk, ADD Vx, kk (R163): modulo 256, no flag. -/
def exec7xkk (x : Reg) (kk : Byte) (s : State) : Result :=
  .next (s.setReg x (BitVec.ofNat 8 ((s.reg x).toNat + kk.toNat))).advance

/-- 8xy0, LD Vx, Vy (R164). -/
def exec8xy0 (x y : Reg) (s : State) : Result := .next (s.setReg x (s.reg y)).advance

/-- 8xy1, OR Vx, Vy (R165). -/
def exec8xy1 (x y : Reg) (s : State) : Result := .next (s.setReg x (s.reg x ||| s.reg y)).advance

/-- 8xy2, AND Vx, Vy (R166). -/
def exec8xy2 (x y : Reg) (s : State) : Result := .next (s.setReg x (s.reg x &&& s.reg y)).advance

/-- 8xy3, XOR Vx, Vy (R167). -/
def exec8xy3 (x y : Reg) (s : State) : Result := .next (s.setReg x (s.reg x ^^^ s.reg y)).advance

/-- 8xy4, ADD Vx, Vy (R168): carry to VF, then the sum modulo 256. -/
def exec8xy4 (x y : Reg) (s : State) : Result :=
  .next (s.writeFlagThenReg (carryFlag (s.reg x) (s.reg y)) x
    (BitVec.ofNat 8 ((s.reg x).toNat + (s.reg y).toNat))).advance

/-- 8xy5, SUB Vx, Vy (R169): VF is 1 iff `V[x] > V[y]`. -/
def exec8xy5 (x y : Reg) (s : State) : Result :=
  .next (s.writeFlagThenReg (greaterFlag (s.reg x) (s.reg y)) x (s.reg x - s.reg y)).advance

/-- 8xy6, SHR Vx (R170): in place; `y` is ignored. -/
def exec8xy6 (x _y : Reg) (s : State) : Result :=
  .next (s.writeFlagThenReg (shiftedOutRight (s.reg x)) x (s.reg x >>> 1)).advance

/-- 8xy7, SUBN Vx, Vy (R171): VF is 1 iff `V[y] > V[x]`. -/
def exec8xy7 (x y : Reg) (s : State) : Result :=
  .next (s.writeFlagThenReg (greaterFlag (s.reg y) (s.reg x)) x (s.reg y - s.reg x)).advance

/-- 8xyE, SHL Vx (R172): in place; `y` is ignored. -/
def exec8xyE (x _y : Reg) (s : State) : Result :=
  .next (s.writeFlagThenReg (shiftedOutLeft (s.reg x)) x (s.reg x <<< 1)).advance

/-- Cxkk, RND Vx, kk (R178): `V[x] <- rnd AND kk`. -/
def execCxkk (x : Reg) (kk : Byte) (s : State) : Result :=
  .next ((s.setReg x (s.draw &&& kk)).setDraws (s.draws + 1)).advance

end Sys2Proof.Machine
end

