-- ==== Sys2Proof/Machine/Dispatch.lean ====
section
/-! DEFINITION. The execute phase of a STEP: one arm per instruction (40_step_cycle R124, R130). -/

namespace Sys2Proof.Machine

def exec (i : Instr) (s : State) : Host.Outcome State Fault Refusal :=
  match i with
  | .op00E0 => Sys2Proof.Machine.exec00E0 s
  | .op00EE => Sys2Proof.Machine.exec00EE s
  | .op1nnn nnn => Sys2Proof.Machine.exec1nnn nnn s
  | .op2nnn nnn => Sys2Proof.Machine.exec2nnn nnn s
  | .op3xkk x kk => Sys2Proof.Machine.exec3xkk x kk s
  | .op4xkk x kk => Sys2Proof.Machine.exec4xkk x kk s
  | .op5xy0 x y => Sys2Proof.Machine.exec5xy0 x y s
  | .op6xkk x kk => Sys2Proof.Machine.exec6xkk x kk s
  | .op7xkk x kk => Sys2Proof.Machine.exec7xkk x kk s
  | .op8xy0 x y => Sys2Proof.Machine.exec8xy0 x y s
  | .op8xy1 x y => Sys2Proof.Machine.exec8xy1 x y s
  | .op8xy2 x y => Sys2Proof.Machine.exec8xy2 x y s
  | .op8xy3 x y => Sys2Proof.Machine.exec8xy3 x y s
  | .op8xy4 x y => Sys2Proof.Machine.exec8xy4 x y s
  | .op8xy5 x y => Sys2Proof.Machine.exec8xy5 x y s
  | .op8xy6 x y => Sys2Proof.Machine.exec8xy6 x y s
  | .op8xy7 x y => Sys2Proof.Machine.exec8xy7 x y s
  | .op8xyE x y => Sys2Proof.Machine.exec8xyE x y s
  | .op9xy0 x y => Sys2Proof.Machine.exec9xy0 x y s
  | .opAnnn nnn => Sys2Proof.Machine.execAnnn nnn s
  | .opBnnn nnn => Sys2Proof.Machine.execBnnn nnn s
  | .opCxkk x kk => Sys2Proof.Machine.execCxkk x kk s
  | .opDxyn x y n => Sys2Proof.Machine.execDxyn x y n s
  | .opEx9E x => Sys2Proof.Machine.execEx9E x s
  | .opExA1 x => Sys2Proof.Machine.execExA1 x s
  | .opFx07 x => Sys2Proof.Machine.execFx07 x s
  | .opFx0A x => Sys2Proof.Machine.execFx0A x s
  | .opFx15 x => Sys2Proof.Machine.execFx15 x s
  | .opFx18 x => Sys2Proof.Machine.execFx18 x s
  | .opFx1E x => Sys2Proof.Machine.execFx1E x s
  | .opFx29 x => Sys2Proof.Machine.execFx29 x s
  | .opFx33 x => Sys2Proof.Machine.execFx33 x s
  | .opFx55 x => Sys2Proof.Machine.execFx55 x s
  | .opFx65 x => Sys2Proof.Machine.execFx65 x s
  | .nop op => Sys2Proof.Machine.execNop op s

end Sys2Proof.Machine
end

