-- ==== Sys2Proof/Machine/Cycle.lean ====
section
/-! DEFINITION. The STEP cycle around the execute phase: fetch, WAIT and the timer ticks (40_step_cycle R120 to R133). -/

namespace Sys2Proof.Machine

/-- Fetch (R121): the big-endian opcode at PC; none is OutOfBounds, `PC + 1 ≥ 4096`. -/
def fetch (s : State) : Option Word :=
  if Config.memSize ≤ s.pc.toNat + 1 then none
  else some (opcodeOfBytes (s.byteAt s.pc.toNat) (s.byteAt (s.pc.toNat + 1)))

/-- A tick of a timer (R40). -/
def tick (t : Byte) : Byte := if 0 < t.toNat then t - 1 else t

/-- What a completed STEP writes to WAIT: whether the instruction was Fx0A and found no key latched (R129). -/
def waitAfter (i : Instr) (s : State) : Bool :=
  match i with
  | .opFx0A _ => s.latch.isNone
  | _ => false

/-- The end of a completed STEP: WAIT (R129), then both ticks on the values the instruction left (R128). The model's own
fields record that a STEP has happened and that its draw is spent. -/
def endOfStep (w : Bool) (t : State) : State :=
  { t with wait := w, dt := tick t.dt, st := tick t.st, phase := .stepping, rnd := none }

/-- After the execute phase (R130): a raised fault ends the STEP at once (R272), else WAIT and the ticks follow. -/
def finish (i : Instr) (s t : State) : State :=
  match t.fault with
  | some _ => t
  | none => endOfStep (waitAfter i s) t

/-- Run one fetched opcode from the state `s` at the start of the STEP (R123, R124, R130). -/
def runOpcode (op : Word) (s : State) : Result :=
  match exec (decode op) s with
  | .next t => .next (finish (decode op) s t)
  | .fault f => .fault f
  | .refused r => .refused r

/-- STEP (R130): nothing on a faulted core (R125), else fetch, decode, execute, tick. -/
def coreStep (s : State) : Result :=
  match s.fault with
  | some _ => .next s
  | none =>
    match fetch s with
    | none => raise .outOfBounds s
    | some op => runOpcode op s

/-- Place a word at PC, high byte first (R62). -/
def State.placeWord (s : State) (op : Word) : State := s.storeBytes s.pc.toNat (bytesOfWord op)

/-- Make the coming STEP possible: nothing scheduled before it, no pending fault, a RESET done, a PC that can be fetched. The
state after RESET is left as it is. Log 14. -/
def State.readyToFetch (s : State) : State :=
  { s with
    hostOps := []
    fault := none
    phase := if s.phase = .beforeReset then .afterReset else s.phase
    pc := if Config.memSize ≤ s.pc.toNat + 1 then 0x0200 else s.pc }

end Sys2Proof.Machine
end

