-- ==== Sys2Proof/Machine/HostOperations.lean ====
section
/-! DEFINITION. The host's operations RESET, LOAD, KEY_DOWN, KEY_UP and STEP and their protocol (47_host_operations R250 to
R260). -/

namespace Sys2Proof.Machine

/-- LOAD(bytes) on a core with no fault (R252): at most once, before the first STEP (R257). -/
def loadRom (bytes : List Byte) (s : State) : Result :=
  if s.phase = .afterReset then
    if Config.romMax < bytes.length then raise .romTooLarge s
    else .next ((s.storeBytes Config.progBase bytes).setPhase .loaded)
  else .refused .loadOutOfProtocol

/-- KEY_DOWN(k) on a core with no fault (R253): the key's flag, and the latch takes the key. -/
def keyDown (k : Nat) (s : State) : Result :=
  if h : k < 16 then .next ((s.setKey ⟨k, h⟩ true).setLatch (some ⟨k, h⟩)) else raise .invalidKey s

/-- KEY_UP(k) on a core with no fault (R254): the latch is cleared only if it names the key. -/
def keyUp (k : Nat) (s : State) : Result :=
  if h : k < 16 then
    .next ((s.setKey ⟨k, h⟩ false).setLatch (if s.latch = some ⟨k, h⟩ then none else s.latch))
  else raise .invalidKey s

/-- An operation other than RESET: refused before the first RESET (R257 (1)), without effect on a faulted core (R259). -/
def whenLive (s : State) (r : Result) : Result :=
  if s.phase = .beforeReset then .refused .beforeReset
  else
    match s.fault with
    | some _ => .next s
    | none => r

/-- One operation of the host (R250). -/
def performOp (op : HostOp) (s : State) : Result :=
  match op with
  | .reset => .next s.resetCore
  | .load bytes => whenLive s (loadRom bytes s)
  | .keyDown k => whenLive s (keyDown k s)
  | .keyUp k => whenLive s (keyUp k s)
  | .step rnd => whenLive s (coreStep (s.setRnd (some rnd)))

/-- The next operation: the first the host has scheduled, else a STEP with a free draw. Log 1. -/
def nextOperation (s : State) : Result :=
  match s.hostOps with
  | [] => whenLive s (coreStep s)
  | op :: ops => performOp op (s.setHostOps ops)

end Sys2Proof.Machine
end

