-- ==== Sys2Proof/Machine/Outputs.lean ====
section
/-! DEFINITION. What the core shows to the host, each a function of the state (47_host_operations R255), and the register
forms of FAULT and LATCH (60_exceptions R271, 10_state R38). -/

namespace Sys2Proof.Machine

/-- The code of a fault kind (R271). -/
def faultCode : FaultKind → BitVec 3
  | .outOfBounds => 1
  | .romTooLarge => 2
  | .stackOverflow => 3
  | .stackUnderflow => 4
  | .invalidRegister => 5
  | .invalidKey => 6

/-- Output `fault`, the 3-bit FAULT register: 0 is no fault (R255, R43). -/
def State.faultOut (s : State) : BitVec 3 :=
  match s.fault with
  | none => 0
  | some k => faultCode k

/-- Output `waiting` (R255). -/
def State.waitingOut (s : State) : Bool := s.wait

/-- Output `sound_on`: whether ST is not zero (R255). -/
def State.soundOn (s : State) : Bool := s.st != 0

/-- The rows as one number, the first row lowest. -/
def rowsValue : List PixelRow → Nat
  | [] => 0
  | r :: rs => r.toNat + 2 ^ 64 * rowsValue rs

/-- Output `fb`: bit `py * 64 + px` is `FB[py][px]` (R255). -/
def State.fbOut (s : State) : BitVec 2048 := BitVec.ofNat 2048 (rowsValue s.fb.toList)

/-- LATCH as a 5-bit register: 0 is none, `k + 1` is key `k` (R38). -/
def State.latchBits (s : State) : BitVec 5 :=
  match s.latch with
  | none => 0
  | some k => BitVec.ofNat 5 (k.val + 1)

end Sys2Proof.Machine
end

