-- ==== Sys2Proof/Machine/Step.lean ====
section
/-! DEFINITION. One step of the machine, and placing the instruction it fetches next. -/

namespace Sys2Proof.Machine

/-- One operation of R250: the host's next one, else a STEP (Machine/HostOperations.lean). -/
def step (s : State) : Host.Outcome State Fault Refusal := nextOperation s

/-- `s` with the instruction `w`, numbered as spec/opcode_table.json numbers it, where the next step fetches it. Log 14. -/
def State.withFetchWord (s : State) (nbits w : Nat) : State := s.readyToFetch.placeWord (tableWord nbits w)

end Sys2Proof.Machine
end

