-- ==== Sys2Proof/Safety.lean ====
section
/-! DEFINITION. The terms claims are stated in: the parts of the state and frames over them, well-formed states (10_state
R49), live cores, encodings as mask and match, and which pixels a sprite covers. -/

namespace Sys2Proof.Machine

/-! ### Frames -/

/-- One observable part of the state: every register, flag and slot by itself, every byte of memory and every pixel. -/
inductive StatePart where
  | reg (r : Reg)
  | i
  | pc
  | slot (k : Fin 16)
  | sp
  | font
  | byte (a : Nat)
  | pixel (py px : Nat)
  | key (k : Fin 16)
  | latch
  | dt
  | st
  | wait
  | fault
  | rnd
  | draws
  | hostOps
  | phase
  deriving DecidableEq, Repr

/-- The part reads the same in both states. -/
def StatePart.Same (s t : State) : StatePart → Prop
  | .reg r => t.reg r = s.reg r
  | .i => t.i = s.i
  | .pc => t.pc = s.pc
  | .slot k => t.stack[k.val] = s.stack[k.val]
  | .sp => t.sp = s.sp
  | .font => t.font = s.font
  | .byte a => t.byteAt a = s.byteAt a
  | .pixel py px => t.pixel py px = s.pixel py px
  | .key k => t.key[k.val] = s.key[k.val]
  | .latch => t.latch = s.latch
  | .dt => t.dt = s.dt
  | .st => t.st = s.st
  | .wait => t.wait = s.wait
  | .fault => t.fault = s.fault
  | .rnd => t.rnd = s.rnd
  | .draws => t.draws = s.draws
  | .hostOps => t.hostOps = s.hostOps
  | .phase => t.phase = s.phase

/-- From `s` to `t` nothing changes but the parts named in `changed`. -/
def OnlyChanges (changed : StatePart → Prop) (s t : State) : Prop := ∀ p, ¬ changed p → p.Same s t

/-! ### States in which the core runs -/

/-- A STEP is the next operation and executes: nothing scheduled before it, RESET done (R257), no fault (R125). -/
def State.Live (s : State) : Prop := s.hostOps = [] ∧ s.phase ≠ .beforeReset ∧ s.fault = none

/-- The next operation of `s` is a STEP of a live core, and its execute phase starts from `u`: from `s` itself when nothing is
scheduled, else from `s` with the STEP(rnd) taken off the schedule and its draw named (R120, R256; the schedule and the draw
are the model's own fields, logs 1 and 2, and nothing else of `u` differs from `s`). -/
def State.StepsFrom (s u : State) : Prop :=
  s.phase ≠ .beforeReset ∧ s.fault = none ∧
  ((s.hostOps = [] ∧ u = s) ∨ ∃ r ops, s.hostOps = .step r :: ops ∧ u = { s with hostOps := ops, rnd := some r })

/-- Return addresses that are live are at most 0x1000 (R27, R29). -/
def State.ReturnsBounded (s : State) : Prop := ∀ k : Fin 16, k.val < s.sp.val → (s.stack[k.val]).toNat ≤ 0x1000

/-- While WAIT is set a STEP has happened and PC is at an Fx0A that can be fetched (R41, R49). -/
def State.WaitsAtKeyWait (s : State) : Prop :=
  s.wait = true → s.phase = .stepping ∧ ∃ op x, fetch s = some op ∧ decode op = .opFx0A x

/-- Well-formed states (R49, and the canonical form of memory). `SP ≤ 16`, `LATCH` none or a key and `FAULT ≤ 6` hold of
every state by the types of the fields. -/
structure State.WellFormed (s : State) : Prop where
  mem : Memory.wf s.font s.mem = true
  pc : s.pc.toNat ≤ 0x10FE
  returns : s.ReturnsBounded
  waits : s.WaitsAtKeyWait

/-! ### Sprites -/

/-- The sprite whose rows are `bytes`, anchored at column `x0`, row `y0`, has a set bit for pixel (`py`, `px`): row `i` lands
on `y0 + i`, bit 7 of a row on column `x0`, bit 0 on column `x0 + 7` (R213). -/
def SpriteCovers (bytes : List Byte) (x0 y0 py px : Nat) : Prop :=
  ∃ i j : Nat, ∃ b : Byte, bytes[i]? = some b ∧ j ≤ 7 ∧ b.getLsbD (7 - j) = true ∧ py = y0 + i ∧ px = x0 + j

/-! ### What an instruction may raise and may write -/

/-- The fault an instruction's execute phase raises (the table of R271). -/
def faultOf (i : Instr) (s : State) : Option FaultKind :=
  match i with
  | .op00EE => if s.sp.val = 0 then some .stackUnderflow else none
  | .op2nnn _ => if s.sp.val = 16 then some .stackOverflow else none
  | .opDxyn _ _ n => if 1 ≤ n.toNat ∧ 4096 ≤ s.i.toNat + n.toNat - 1 then some .outOfBounds else none
  | .opEx9E x => if 15 < (s.reg x).toNat then some .invalidKey else none
  | .opExA1 x => if 15 < (s.reg x).toNat then some .invalidKey else none
  | .opFx33 _ => if 4096 ≤ s.i.toNat + 2 then some .outOfBounds else none
  | .opFx55 x => if 4096 ≤ s.i.toNat + x.val then some .outOfBounds else none
  | .opFx65 x => if 4096 ≤ s.i.toNat + x.val then some .outOfBounds else none
  | _ => none

/-- The general registers an instruction may write (the table of R22): `V[x]`, the flag VF, or `V[0..x]`. -/
def MayWriteReg (i : Instr) (r : Reg) : Prop :=
  match i with
  | .op6xkk x _ => r = x
  | .op7xkk x _ => r = x
  | .op8xy0 x _ => r = x
  | .op8xy1 x _ => r = x
  | .op8xy2 x _ => r = x
  | .op8xy3 x _ => r = x
  | .op8xy4 x _ => r = x ∨ r = Reg.VF
  | .op8xy5 x _ => r = x ∨ r = Reg.VF
  | .op8xy6 x _ => r = x ∨ r = Reg.VF
  | .op8xy7 x _ => r = x ∨ r = Reg.VF
  | .op8xyE x _ => r = x ∨ r = Reg.VF
  | .opCxkk x _ => r = x
  | .opDxyn _ _ _ => r = Reg.VF
  | .opFx07 x => r = x
  | .opFx0A x => r = x
  | .opFx65 x => r ≤ x
  | _ => False

/-- The parts of the state the execute phase of an instruction may write: the 'written by' entries of R22, R24, R26, R28,
R29, R32, R34, R36, R37, R39 and R43. `draws` is the model's own. -/
def MayWrite (i : Instr) (s : State) (p : StatePart) : Prop :=
  match p with
  | .reg r => MayWriteReg i r
  | .i => (∃ nnn, i = .opAnnn nnn) ∨ (∃ x, i = .opFx1E x) ∨ ∃ x, i = .opFx29 x
  | .pc => True
  | .slot k => (∃ nnn, i = .op2nnn nnn) ∧ k.val = s.sp.val
  | .sp => i = .op00EE ∨ ∃ nnn, i = .op2nnn nnn
  | .font => False
  | .byte a => ((∃ x, i = .opFx33 x) ∧ s.i.toNat ≤ a ∧ a < s.i.toNat + 3) ∨
      ∃ x, i = .opFx55 x ∧ s.i.toNat ≤ a ∧ a ≤ s.i.toNat + x.val
  | .pixel py px => i = .op00E0 ∨
      ∃ x y n, i = .opDxyn x y n ∧
        SpriteCovers (s.bytesAt s.i.toNat n.toNat) ((s.reg x).toNat % 64) ((s.reg y).toNat % 32) py px
  | .key _ => False
  | .latch => ∃ x, i = .opFx0A x
  | .dt => ∃ x, i = .opFx15 x
  | .st => ∃ x, i = .opFx18 x
  | .wait => False
  | .fault => faultOf i s ≠ none
  | .rnd => False
  | .draws => ∃ x kk, i = .opCxkk x kk
  | .hostOps => False
  | .phase => False

/-! ### Encodings -/

/-- The words that decode to an instruction of the form `f` are exactly those with `op AND mask = value` (R93, R94). -/
def EncodedBy (mask value : Word) (f : Word → Instr) : Prop := ∀ op : Word, op &&& mask = value ↔ decode op = f op

end Sys2Proof.Machine
end

