-- ==== Sys2Proof/Certificates/Slice0/Obligations.lean ====
section
/-! DEFINITION. The statements for the provers, from the numbered rules of spec/. `exec` is the execute phase of a STEP, from
the state with `PC = pc0`; `step` is a whole operation. `s.StepsFrom u` says that the next operation of `s` is a STEP of a live
core, scheduled by the host or not, executed from `u`, which differs from `s` in the model's own `hostOps` and `rnd` alone. -/

open Sys2Proof Sys2Proof.Machine

/-! ### Encoding -/

/-- 30_encoding R91, R92, R94: the decoder reads every well-formed instruction back from its encoding, with every operand at
every value, as a word and as bytes followed by anything. -/
def Obligations.DecodeAfterEncode : Prop :=
  ∀ i : Instr, i.wellFormed = true →
    decode (encode i) = i ∧ ∀ rest, decodeBytes (encodeBytes i ++ rest) = .ok (i, rest)

/-- 30_encoding R94, R102, R103: every word is the encoding of the instruction it decodes to, which is well formed; no word is
rejected. -/
def Obligations.EncodeAfterDecode : Prop :=
  ∀ op : Word, encode (decode op) = op ∧ (decode op).wellFormed = true ∧ decodeTableWord 16 op.toNat = some (decode op)

/-- R93: the decoder is the test of the 34 pairs of mask and match, else the no-operation; no word matches two of them. -/
def Obligations.DecoderFollowsOpcodeMap : Prop :=
  opcodeMap.length = 34 ∧
  (∀ op r, r ∈ opcodeMap → op &&& r.mask = r.value → rowOf (decode op) = r) ∧
  (∀ op, (∀ r ∈ opcodeMap, op &&& r.mask ≠ r.value) → decode op = .nop op) ∧
  ∀ op r r', r ∈ opcodeMap → r' ∈ opcodeMap → op &&& r.mask = r.value → op &&& r'.mask = r'.value → r = r'

/-- Words written out from 30_encoding R94 and R95 and the instructions they stand for, one or two of each family. -/
def Obligations.WrittenOutWordsDecode : Prop :=
  decode 0x00E0 = .op00E0 ∧ decode 0x00EE = .op00EE ∧ decode 0x01EE = .nop 0x01EE ∧ decode 0x2ABC = .op2nnn 0xABC ∧
  decode 0x3A42 = .op3xkk 0xA 0x42 ∧ decode 0x5120 = .op5xy0 1 2 ∧ decode 0x5121 = .nop 0x5121 ∧
  decode 0x8F1E = .op8xyE 0xF 1 ∧ decode 0x8128 = .nop 0x8128 ∧ decode 0xBFFF = .opBnnn 0xFFF ∧
  decode 0xC30F = .opCxkk 3 0x0F ∧ decode 0xD12F = .opDxyn 1 2 0xF ∧ decode 0xE29E = .opEx9E 2 ∧
  decode 0xF10A = .opFx0A 1 ∧ decode 0xF455 = .opFx55 4 ∧ decode 0xFFFF = .nop 0xFFFF

/-! ### The no-operation and control transfer -/

/-- R127: any unmatched word is a no-operation: the execute phase writes PC alone, and the STEP completes with WAIT 0 and both
timers ticked. (`phase` and `rnd` are the model's own fields, logs 2 and 3.) -/
def Obligations.NoOperationOnlyAdvances : Prop :=
  (∀ op, matchesPattern op = false → decode op = .nop op) ∧
  (∀ op s, ∃ t, exec (.nop op) s = .next t ∧ t.pc = s.pc + 2 ∧ OnlyChanges (fun p => p = .pc) s t) ∧
  ∀ op s u, s.StepsFrom u → fetch s = some op → matchesPattern op = false →
    ∃ t, step s = .next t ∧ t.pc = s.pc + 2 ∧ t.wait = false ∧ t.dt.toNat = s.dt.toNat - 1 ∧ t.st.toNat = s.st.toNat - 1 ∧
      OnlyChanges (fun p => p = .pc ∨ p = .wait ∨ p = .dt ∨ p = .st ∨ p = .phase ∨ p = .rnd) u t

/-- R141, R142: a call pushes the address after itself and jumps; with SP = 16 it raises StackOverflow and nothing else
changes. -/
def Obligations.CallPushesReturnAddress : Prop :=
  EncodedBy 0xF000 0x2000 (fun op => .op2nnn (opNnn op)) ∧
  (∀ nnn s (h : s.sp.val < 16), ∃ t, exec (.op2nnn nnn) s = .next t ∧ t.pc.toNat = nnn.toNat ∧
    t.stack[s.sp.val] = s.pc + 2 ∧ t.sp.val = s.sp.val + 1 ∧
    OnlyChanges (fun p => p = .pc ∨ p = .sp ∨ p = .slot ⟨s.sp.val, h⟩) s t) ∧
  ∀ nnn s, s.sp.val = 16 → exec (.op2nnn nnn) s = .next { s with fault := some .stackOverflow }

/-- R143, R144: a return takes the top of the stack to PC, lowers SP by one and leaves the slot's value; with SP = 0 it raises
StackUnderflow and nothing else changes. -/
def Obligations.ReturnPopsToPc : Prop :=
  EncodedBy 0xFFFF 0x00EE (fun _ => .op00EE) ∧
  (∀ s, 0 < s.sp.val → ∃ t, exec .op00EE s = .next t ∧ t.pc = s.stack[s.sp.val - 1] ∧ t.sp.val = s.sp.val - 1 ∧
    OnlyChanges (fun p => p = .pc ∨ p = .sp) s t) ∧
  ∀ s, s.sp.val = 0 → exec .op00EE s = .next { s with fault := some .stackUnderflow }

/-- R145, R146: the two jumps; the sum with V0 is not reduced to 12 bits; a target from 4095 on is taken, and the next STEP
faults at its fetch; the timers tick as in every STEP. -/
def Obligations.JumpsSetPc : Prop :=
  EncodedBy 0xF000 0x1000 (fun op => .op1nnn (opNnn op)) ∧ EncodedBy 0xF000 0xB000 (fun op => .opBnnn (opNnn op)) ∧
  (∀ nnn s, ∃ t, exec (.op1nnn nnn) s = .next t ∧ t.pc.toNat = nnn.toNat ∧ OnlyChanges (fun p => p = .pc) s t) ∧
  (∀ nnn s, ∃ t, exec (.opBnnn nnn) s = .next t ∧ t.pc.toNat = nnn.toNat + (s.reg 0).toNat ∧
    OnlyChanges (fun p => p = .pc) s t) ∧
  ∀ op nnn s u, s.StepsFrom u → fetch s = some op → decode op = .op1nnn nnn ∨ decode op = .opBnnn nnn →
    ∃ t, step s = .next t ∧
      t.pc.toNat = (if decode op = .op1nnn nnn then nnn.toNat else nnn.toNat + (s.reg 0).toNat) ∧
      t.dt.toNat = s.dt.toNat - 1 ∧ t.st.toNat = s.st.toNat - 1 ∧ (s.hostOps = [] → t.StepsFrom t) ∧
      ∀ w, t.StepsFrom w → 4095 ≤ t.pc.toNat → ∃ v, step t = .next v ∧ v.fault = some .outOfBounds

/-- R147, R148: the skips on an immediate. -/
def Obligations.SkipsOnImmediate : Prop :=
  EncodedBy 0xF000 0x3000 (fun op => .op3xkk (opX op) (opKk op)) ∧
  EncodedBy 0xF000 0x4000 (fun op => .op4xkk (opX op) (opKk op)) ∧
  (∀ x kk s, ∃ t, exec (.op3xkk x kk) s = .next t ∧ t.pc = (if s.reg x = kk then s.pc + 4 else s.pc + 2) ∧
    OnlyChanges (fun p => p = .pc) s t) ∧
  ∀ x kk s, ∃ t, exec (.op4xkk x kk) s = .next t ∧ t.pc = (if s.reg x ≠ kk then s.pc + 4 else s.pc + 2) ∧
    OnlyChanges (fun p => p = .pc) s t

/-- R149, R150: the skips on two registers; a nonzero low nibble is an unmatched pattern. -/
def Obligations.SkipsOnRegisters : Prop :=
  EncodedBy 0xF00F 0x5000 (fun op => .op5xy0 (opX op) (opY op)) ∧
  EncodedBy 0xF00F 0x9000 (fun op => .op9xy0 (opX op) (opY op)) ∧
  (∀ op : Word, op &&& 0xF000 = 0x5000 ∨ op &&& 0xF000 = 0x9000 → op &&& 0x000F ≠ 0 → decode op = .nop op) ∧
  (∀ x y s, ∃ t, exec (.op5xy0 x y) s = .next t ∧ t.pc = (if s.reg x = s.reg y then s.pc + 4 else s.pc + 2) ∧
    OnlyChanges (fun p => p = .pc) s t) ∧
  ∀ x y s, ∃ t, exec (.op9xy0 x y) s = .next t ∧ t.pc = (if s.reg x ≠ s.reg y then s.pc + 4 else s.pc + 2) ∧
    OnlyChanges (fun p => p = .pc) s t

/-! ### Registers, arithmetic, logic, shifts, random -/

/-- R162, R163: load and add an immediate; the sum wraps modulo 256 and no flag is written. -/
def Obligations.LoadAndAddImmediate : Prop :=
  EncodedBy 0xF000 0x6000 (fun op => .op6xkk (opX op) (opKk op)) ∧
  EncodedBy 0xF000 0x7000 (fun op => .op7xkk (opX op) (opKk op)) ∧
  (∀ x kk s, ∃ t, exec (.op6xkk x kk) s = .next t ∧ t.reg x = kk ∧ t.pc = s.pc + 2 ∧
    OnlyChanges (fun p => p = .pc ∨ p = .reg x) s t) ∧
  ∀ x kk s, ∃ t, exec (.op7xkk x kk) s = .next t ∧ (t.reg x).toNat = ((s.reg x).toNat + kk.toNat) % 256 ∧
    t.pc = s.pc + 2 ∧ OnlyChanges (fun p => p = .pc ∨ p = .reg x) s t

/-- R164 to R167: copy, OR, AND and XOR, bit by bit; VF is not written unless it is the destination. -/
def Obligations.CopyAndLogic : Prop :=
  EncodedBy 0xF00F 0x8000 (fun op => .op8xy0 (opX op) (opY op)) ∧
  EncodedBy 0xF00F 0x8001 (fun op => .op8xy1 (opX op) (opY op)) ∧
  EncodedBy 0xF00F 0x8002 (fun op => .op8xy2 (opX op) (opY op)) ∧
  EncodedBy 0xF00F 0x8003 (fun op => .op8xy3 (opX op) (opY op)) ∧
  (∀ x y s, ∃ t, exec (.op8xy0 x y) s = .next t ∧ t.reg x = s.reg y ∧ t.pc = s.pc + 2 ∧
    OnlyChanges (fun p => p = .pc ∨ p = .reg x) s t) ∧
  (∀ x y s, ∃ t, exec (.op8xy1 x y) s = .next t ∧
    (∀ k < 8, (t.reg x).getLsbD k = ((s.reg x).getLsbD k || (s.reg y).getLsbD k)) ∧ t.pc = s.pc + 2 ∧
    OnlyChanges (fun p => p = .pc ∨ p = .reg x) s t) ∧
  (∀ x y s, ∃ t, exec (.op8xy2 x y) s = .next t ∧
    (∀ k < 8, (t.reg x).getLsbD k = ((s.reg x).getLsbD k && (s.reg y).getLsbD k)) ∧ t.pc = s.pc + 2 ∧
    OnlyChanges (fun p => p = .pc ∨ p = .reg x) s t) ∧
  ∀ x y s, ∃ t, exec (.op8xy3 x y) s = .next t ∧
    (∀ k < 8, (t.reg x).getLsbD k = ((s.reg x).getLsbD k ^^ (s.reg y).getLsbD k)) ∧ t.pc = s.pc + 2 ∧
    OnlyChanges (fun p => p = .pc ∨ p = .reg x) s t

/-- R168: the sum modulo 256 and its carry; with x = F the sum wins over the flag (the spec's decision D6, log 8). -/
def Obligations.AddWithCarry : Prop :=
  EncodedBy 0xF00F 0x8004 (fun op => .op8xy4 (opX op) (opY op)) ∧
  ∀ x y s, ∃ t, exec (.op8xy4 x y) s = .next t ∧
    (t.reg x).toNat = ((s.reg x).toNat + (s.reg y).toNat) % 256 ∧
    (x ≠ Reg.VF → t.reg Reg.VF = if 255 < (s.reg x).toNat + (s.reg y).toNat then 1 else 0) ∧ t.pc = s.pc + 2 ∧
    OnlyChanges (fun p => p = .pc ∨ p = .reg x ∨ p = .reg Reg.VF) s t

/-- R169, R171: the differences modulo 256; VF is 1 exactly when the minuend is strictly greater; with x = F the difference
wins over the flag (the spec's decision D6, log 8). -/
def Obligations.SubtractBothWays : Prop :=
  EncodedBy 0xF00F 0x8005 (fun op => .op8xy5 (opX op) (opY op)) ∧
  EncodedBy 0xF00F 0x8007 (fun op => .op8xy7 (opX op) (opY op)) ∧
  (∀ x y s, ∃ t, exec (.op8xy5 x y) s = .next t ∧
    ((t.reg x).toNat : Int) = ((s.reg x).toNat - (s.reg y).toNat : Int) % 256 ∧
    (x ≠ Reg.VF → t.reg Reg.VF = if (s.reg y).toNat < (s.reg x).toNat then 1 else 0) ∧ t.pc = s.pc + 2 ∧
    OnlyChanges (fun p => p = .pc ∨ p = .reg x ∨ p = .reg Reg.VF) s t) ∧
  ∀ x y s, ∃ t, exec (.op8xy7 x y) s = .next t ∧
    ((t.reg x).toNat : Int) = ((s.reg y).toNat - (s.reg x).toNat : Int) % 256 ∧
    (x ≠ Reg.VF → t.reg Reg.VF = if (s.reg x).toNat < (s.reg y).toNat then 1 else 0) ∧ t.pc = s.pc + 2 ∧
    OnlyChanges (fun p => p = .pc ∨ p = .reg x ∨ p = .reg Reg.VF) s t

/-- R170, R172: the shifts of `V[x]` in place, whatever `y` is; VF is the bit shifted out; with x = F the result wins over the
flag (the spec's decision D6, log 8). -/
def Obligations.ShiftsInPlace : Prop :=
  EncodedBy 0xF00F 0x8006 (fun op => .op8xy6 (opX op) (opY op)) ∧
  EncodedBy 0xF00F 0x800E (fun op => .op8xyE (opX op) (opY op)) ∧
  (∀ x y s, ∃ t, exec (.op8xy6 x y) s = .next t ∧ (t.reg x).toNat = (s.reg x).toNat / 2 ∧
    (x ≠ Reg.VF → (t.reg Reg.VF).toNat = (s.reg x).toNat % 2) ∧ t.pc = s.pc + 2 ∧
    OnlyChanges (fun p => p = .pc ∨ p = .reg x ∨ p = .reg Reg.VF) s t) ∧
  ∀ x y s, ∃ t, exec (.op8xyE x y) s = .next t ∧ (t.reg x).toNat = 2 * (s.reg x).toNat % 256 ∧
    (x ≠ Reg.VF → (t.reg Reg.VF).toNat = (s.reg x).toNat / 128) ∧ t.pc = s.pc + 2 ∧
    OnlyChanges (fun p => p = .pc ∨ p = .reg x ∨ p = .reg Reg.VF) s t

/-- R178: `V[x]` is the STEP's draw AND `kk`, for every draw (`State.draw`: what the host named for the STEP, else a free
value, log 2), and every other instruction ignores the draw. (`draws` is the model's own count.) -/
def Obligations.RandomIsDrawAndMask : Prop :=
  EncodedBy 0xF000 0xC000 (fun op => .opCxkk (opX op) (opKk op)) ∧
  (∀ x kk s, ∃ t, exec (.opCxkk x kk) s = .next t ∧ t.reg x = s.draw &&& kk ∧ t.pc = s.pc + 2 ∧
    OnlyChanges (fun p => p = .pc ∨ p = .reg x ∨ p = .draws) s t) ∧
  ∀ i s t r n, (∀ x kk, i ≠ .opCxkk x kk) → exec i s = .next t →
    exec i { s with rnd := r, draws := n } = .next { t with rnd := r, draws := n }

/-! ### The index register and memory -/

/-- R191, R192, R193: the three writers of I. -/
def Obligations.IndexRegisterWrites : Prop :=
  EncodedBy 0xF000 0xA000 (fun op => .opAnnn (opNnn op)) ∧ EncodedBy 0xF0FF 0xF01E (fun op => .opFx1E (opX op)) ∧
  EncodedBy 0xF0FF 0xF029 (fun op => .opFx29 (opX op)) ∧
  (∀ nnn s, ∃ t, exec (.opAnnn nnn) s = .next t ∧ t.i.toNat = nnn.toNat ∧ t.pc = s.pc + 2 ∧
    OnlyChanges (fun p => p = .pc ∨ p = .i) s t) ∧
  (∀ x s, ∃ t, exec (.opFx1E x) s = .next t ∧ t.i.toNat = (s.i.toNat + (s.reg x).toNat) % 65536 ∧ t.pc = s.pc + 2 ∧
    OnlyChanges (fun p => p = .pc ∨ p = .i) s t) ∧
  ∀ x s, ∃ t, exec (.opFx29 x) s = .next t ∧ t.i.toNat = 0x050 + (s.reg x).toNat * 5 ∧ t.pc = s.pc + 2 ∧
    OnlyChanges (fun p => p = .pc ∨ p = .i) s t

/-- R196: the three digits at I, I + 1, I + 2 and no other byte, registers and I unchanged; OutOfBounds iff I + 2 ≥ 4096, and
then no byte is written. -/
def Obligations.StoreDecimalDigits : Prop :=
  EncodedBy 0xF0FF 0xF033 (fun op => .opFx33 (opX op)) ∧
  (∀ x s, s.i.toNat + 2 < 4096 → ∃ t, exec (.opFx33 x) s = .next t ∧
    (t.byteAt s.i.toNat).toNat = (s.reg x).toNat / 100 ∧
    (t.byteAt (s.i.toNat + 1)).toNat = (s.reg x).toNat / 10 % 10 ∧
    (t.byteAt (s.i.toNat + 2)).toNat = (s.reg x).toNat % 10 ∧ t.pc = s.pc + 2 ∧
    OnlyChanges (fun p => p = .pc ∨ p = .byte s.i.toNat ∨ p = .byte (s.i.toNat + 1) ∨ p = .byte (s.i.toNat + 2)) s t) ∧
  ∀ x s, 4096 ≤ s.i.toNat + 2 → ∃ t, exec (.opFx33 x) s = .next t ∧ t.fault = some .outOfBounds ∧
    (∀ a, t.byteAt a = s.byteAt a) ∧ (∀ r, t.reg r = s.reg r) ∧ t.i = s.i

/-- R198: `V[k]` at I + k for k ≤ x and no other byte, registers and I unchanged; OutOfBounds iff I + x ≥ 4096, and then no
byte is written. -/
def Obligations.StoreRegisterBlock : Prop :=
  EncodedBy 0xF0FF 0xF055 (fun op => .opFx55 (opX op)) ∧
  (∀ (x : Reg) s, s.i.toNat + x.val < 4096 → ∃ t, exec (.opFx55 x) s = .next t ∧
    (∀ k : Reg, k ≤ x → t.byteAt (s.i.toNat + k.val) = s.reg k) ∧ t.pc = s.pc + 2 ∧
    OnlyChanges (fun p => p = .pc ∨ ∃ k : Reg, k ≤ x ∧ p = .byte (s.i.toNat + k.val)) s t) ∧
  ∀ (x : Reg) s, 4096 ≤ s.i.toNat + x.val → ∃ t, exec (.opFx55 x) s = .next t ∧ t.fault = some .outOfBounds ∧
    (∀ a, t.byteAt a = s.byteAt a) ∧ (∀ r, t.reg r = s.reg r) ∧ t.i = s.i

/-- R200: `MEM[I + k]` in `V[k]` for k ≤ x and no other register, I and memory unchanged; OutOfBounds iff I + x ≥
4096, and then no register is changed. -/
def Obligations.LoadRegisterBlock : Prop :=
  EncodedBy 0xF0FF 0xF065 (fun op => .opFx65 (opX op)) ∧
  (∀ (x : Reg) s, s.i.toNat + x.val < 4096 → ∃ t, exec (.opFx65 x) s = .next t ∧
    (∀ k : Reg, k ≤ x → t.reg k = s.byteAt (s.i.toNat + k.val)) ∧ t.pc = s.pc + 2 ∧
    OnlyChanges (fun p => p = .pc ∨ ∃ k : Reg, k ≤ x ∧ p = .reg k) s t) ∧
  ∀ (x : Reg) s, 4096 ≤ s.i.toNat + x.val → ∃ t, exec (.opFx65 x) s = .next t ∧ t.fault = some .outOfBounds ∧
    (∀ a, t.byteAt a = s.byteAt a) ∧ (∀ r, t.reg r = s.reg r) ∧ t.i = s.i

/-- 43_index_memory, the round trip after R200: Fx55 and then Fx65 with the same x and I restores `V[0..x]`, whatever the
registers held in between. -/
def Obligations.StoreThenLoadRestores : Prop :=
  ∀ (x : Reg) (v : Vector Byte 16) s, s.i.toNat + x.val < 4096 →
    ∃ t u, exec (.opFx55 x) s = .next t ∧ exec (.opFx65 x) { t with v := v } = .next u ∧
      (∀ k : Reg, k ≤ x → u.reg k = s.reg k) ∧ (∀ k : Reg, x < k → u.reg k = v[k.val]) ∧ u.i = s.i

/-- 43_index_memory, the law after R196: the three digits stored by Fx33 give back the value. -/
def Obligations.DecimalDigitsGiveValue : Prop :=
  ∀ x s, s.i.toNat + 2 < 4096 → ∃ t, exec (.opFx33 x) s = .next t ∧
    100 * (t.byteAt s.i.toNat).toNat + 10 * (t.byteAt (s.i.toNat + 1)).toNat + (t.byteAt (s.i.toNat + 2)).toNat =
      (s.reg x).toNat ∧
    (t.byteAt s.i.toNat).toNat ≤ 2 ∧ (t.byteAt (s.i.toNat + 1)).toNat ≤ 9 ∧ (t.byteAt (s.i.toNat + 2)).toNat ≤ 9

/-- 42_register_alu, the identities after R172: each result and its flag together give the exact value. -/
def Obligations.FlagAndResultAreExact : Prop :=
  ∀ (x y : Reg) s, x ≠ Reg.VF →
    (∃ t, exec (.op8xy4 x y) s = .next t ∧
      (t.reg x).toNat + 256 * (t.reg Reg.VF).toNat = (s.reg x).toNat + (s.reg y).toNat) ∧
    (∃ t, exec (.op8xy5 x y) s = .next t ∧ ((t.reg x).toNat + (s.reg y).toNat) % 256 = (s.reg x).toNat ∧
      (t.reg Reg.VF = 1 ↔ (s.reg y).toNat < (s.reg x).toNat)) ∧
    (∃ t, exec (.op8xy6 x y) s = .next t ∧ 2 * (t.reg x).toNat + (t.reg Reg.VF).toNat = (s.reg x).toNat) ∧
    (∃ t, exec (.op8xy7 x y) s = .next t ∧ ((t.reg x).toNat + (s.reg x).toNat) % 256 = (s.reg y).toNat ∧
      (t.reg Reg.VF = 1 ↔ (s.reg x).toNat < (s.reg y).toNat)) ∧
    ∃ t, exec (.op8xyE x y) s = .next t ∧ (t.reg x).toNat + 256 * (t.reg Reg.VF).toNat = 2 * (s.reg x).toNat

/-! ### Display -/

/-- R211, R212: clear turns every pixel off and touches nothing else. -/
def Obligations.ClearScreen : Prop :=
  EncodedBy 0xFFFF 0x00E0 (fun _ => .op00E0) ∧
  ∀ s, ∃ t, exec .op00E0 s = .next t ∧ (∀ py px, py < 32 → px < 64 → t.pixel py px = false) ∧ t.pc = s.pc + 2 ∧
    OnlyChanges (fun p => p = .pc ∨ ∃ py px, p = .pixel py px) s t

/-- R213, R214: a draw toggles exactly the pixels of the grid that a set sprite bit covers, VF is 1 exactly when one of them
was on, and nothing else changes; OutOfBounds iff n ≥ 1 and I + n − 1 ≥ 4096, clipped rows counted. -/
def Obligations.DrawTogglesCoveredPixels : Prop :=
  EncodedBy 0xF000 0xD000 (fun op => .opDxyn (opX op) (opY op) (opN op)) ∧
  (∀ x y n s, (n.toNat = 0 ∨ s.i.toNat + n.toNat - 1 < 4096) → ∃ t, exec (.opDxyn x y n) s = .next t ∧
    (∀ py px, py < 32 → px < 64 →
      (t.pixel py px ≠ s.pixel py px ↔
        SpriteCovers (s.bytesAt s.i.toNat n.toNat) ((s.reg x).toNat % 64) ((s.reg y).toNat % 32) py px)) ∧
    ((∃ py px, py < 32 ∧ px < 64 ∧ s.pixel py px = true ∧
        SpriteCovers (s.bytesAt s.i.toNat n.toNat) ((s.reg x).toNat % 64) ((s.reg y).toNat % 32) py px) →
      t.reg Reg.VF = 1) ∧
    ((¬ ∃ py px, py < 32 ∧ px < 64 ∧ s.pixel py px = true ∧
        SpriteCovers (s.bytesAt s.i.toNat n.toNat) ((s.reg x).toNat % 64) ((s.reg y).toNat % 32) py px) →
      t.reg Reg.VF = 0) ∧ t.pc = s.pc + 2 ∧
    OnlyChanges (fun p => p = .pc ∨ p = .reg Reg.VF ∨ ∃ py px, p = .pixel py px) s t) ∧
  ∀ x y n s, 1 ≤ n.toNat → 4096 ≤ s.i.toNat + n.toNat - 1 →
    exec (.opDxyn x y n) s = .next { s with fault := some .outOfBounds }

/-- R216: the anchor wraps and the body clips: a pixel that changes lies to the right of and below the wrapped anchor, within
8 columns and n rows, and the coordinates matter only modulo 64 and 32. -/
def Obligations.AnchorWrapsBodyClips : Prop :=
  (∀ x y n s, (n.toNat = 0 ∨ s.i.toNat + n.toNat - 1 < 4096) → ∃ t, exec (.opDxyn x y n) s = .next t ∧
    ∀ py px, t.pixel py px ≠ s.pixel py px →
      (s.reg x).toNat % 64 ≤ px ∧ px < (s.reg x).toNat % 64 + 8 ∧ px < 64 ∧
      (s.reg y).toNat % 32 ≤ py ∧ py < (s.reg y).toNat % 32 + n.toNat ∧ py < 32) ∧
  ∀ x y n s s', (n.toNat = 0 ∨ s.i.toNat + n.toNat - 1 < 4096) → s'.i = s.i → s'.mem = s.mem → s'.font = s.font →
    s'.fb = s.fb →
    (s'.reg x).toNat % 64 = (s.reg x).toNat % 64 → (s'.reg y).toNat % 32 = (s.reg y).toNat % 32 →
    ∃ t t', exec (.opDxyn x y n) s = .next t ∧ exec (.opDxyn x y n) s' = .next t' ∧ t'.fb = t.fb ∧
      t'.reg Reg.VF = t.reg Reg.VF

/-- 44_display, self-inverse: two draws with the same coordinates, rows and sprite restore the framebuffer, and from a clear
framebuffer the first reports 0 and the second 1 exactly when some set bit is not clipped. -/
def Obligations.DrawTwiceRestores : Prop :=
  ∀ x y n s, (n.toNat = 0 ∨ s.i.toNat + n.toNat - 1 < 4096) →
    ∃ t u, exec (.opDxyn x y n) s = .next t ∧ exec (.opDxyn x y n) { t with v := s.v } = .next u ∧ u.fb = s.fb ∧
      ((∀ py px, s.pixel py px = false) → t.reg Reg.VF = 0 ∧
        (u.reg Reg.VF = 1 ↔ ∃ py px, py < 32 ∧ px < 64 ∧
          SpriteCovers (s.bytesAt s.i.toNat n.toNat) ((s.reg x).toNat % 64) ((s.reg y).toNat % 32) py px))

/-! ### Keypad and timers -/

/-- R232, R233: the key tests read the held-down flag of key `V[x]`; above 15 they raise InvalidKey and nothing else changes
(the check is the spec's decision D9, log 10). -/
def Obligations.KeyTestsSkip : Prop :=
  EncodedBy 0xF0FF 0xE09E (fun op => .opEx9E (opX op)) ∧ EncodedBy 0xF0FF 0xE0A1 (fun op => .opExA1 (opX op)) ∧
  (∀ (x : Reg) s (k : Fin 16), (s.reg x).toNat = k.val → ∃ t, exec (.opEx9E x) s = .next t ∧
    t.pc = (if s.key[k.val] = true then s.pc + 4 else s.pc + 2) ∧ OnlyChanges (fun p => p = .pc) s t) ∧
  (∀ (x : Reg) s (k : Fin 16), (s.reg x).toNat = k.val → ∃ t, exec (.opExA1 x) s = .next t ∧
    t.pc = (if s.key[k.val] = false then s.pc + 4 else s.pc + 2) ∧ OnlyChanges (fun p => p = .pc) s t) ∧
  ∀ (x : Reg) s, 15 < (s.reg x).toNat →
    exec (.opEx9E x) s = .next { s with fault := some .invalidKey } ∧
    exec (.opExA1 x) s = .next { s with fault := some .invalidKey }

/-- R234: the delay timer is read before the tick of the same STEP. -/
def Obligations.ReadDelayTimer : Prop :=
  EncodedBy 0xF0FF 0xF007 (fun op => .opFx07 (opX op)) ∧
  (∀ x s, ∃ t, exec (.opFx07 x) s = .next t ∧ t.reg x = s.dt ∧ t.pc = s.pc + 2 ∧
    OnlyChanges (fun p => p = .pc ∨ p = .reg x) s t) ∧
  ∀ x op s u, s.StepsFrom u → fetch s = some op → decode op = .opFx07 x →
    ∃ t, step s = .next t ∧ t.reg x = s.dt ∧ t.dt.toNat = s.dt.toNat - 1

/-- R235: the delay timer is set and then ticked in the same STEP; the sound timer is not affected but by its own tick. -/
def Obligations.SetDelayTimerThenTick : Prop :=
  EncodedBy 0xF0FF 0xF015 (fun op => .opFx15 (opX op)) ∧
  (∀ x s, ∃ t, exec (.opFx15 x) s = .next t ∧ t.dt = s.reg x ∧ t.pc = s.pc + 2 ∧
    OnlyChanges (fun p => p = .pc ∨ p = .dt) s t) ∧
  ∀ x op s u, s.StepsFrom u → fetch s = some op → decode op = .opFx15 x →
    ∃ t, step s = .next t ∧ t.dt.toNat = (s.reg x).toNat - 1 ∧ t.st.toNat = s.st.toNat - 1

/-- 45_keypad_timers, Fx18 (R236), its own STEP: the sound timer is set and then ticked; the sound output is taken after the
tick, so a value of 1 is never heard. -/
def Obligations.SetSoundTimerThenTick : Prop :=
  EncodedBy 0xF0FF 0xF018 (fun op => .opFx18 (opX op)) ∧
  (∀ x s, ∃ t, exec (.opFx18 x) s = .next t ∧ t.st = s.reg x ∧ t.pc = s.pc + 2 ∧
    OnlyChanges (fun p => p = .pc ∨ p = .st) s t) ∧
  ∀ x op s u, s.StepsFrom u → fetch s = some op → decode op = .opFx18 x →
    ∃ t, step s = .next t ∧ t.st.toNat = (s.reg x).toNat - 1 ∧ t.dt.toNat = s.dt.toNat - 1 ∧
      (t.soundOn = true ↔ 2 ≤ (s.reg x).toNat)

/-- R237: with no key latched Fx0A stays, WAIT becomes 1 and only the timers move; with a key latched it delivers the key,
clears the latch, proceeds, and WAIT becomes 0. (`phase` and `rnd` are the model's own fields.) -/
def Obligations.WaitForKey : Prop :=
  EncodedBy 0xF0FF 0xF00A (fun op => .opFx0A (opX op)) ∧
  (∀ x s, s.latch = none → exec (.opFx0A x) s = .next s) ∧
  (∀ x s (k : Fin 16), s.latch = some k → ∃ t, exec (.opFx0A x) s = .next t ∧ (t.reg x).toNat = k.val ∧ t.latch = none ∧
    t.pc = s.pc + 2 ∧ OnlyChanges (fun p => p = .pc ∨ p = .reg x ∨ p = .latch) s t) ∧
  (∀ x op s u, s.StepsFrom u → fetch s = some op → decode op = .opFx0A x → s.latch = none →
    ∃ t, step s = .next t ∧ t.pc = s.pc ∧ t.wait = true ∧ t.dt.toNat = s.dt.toNat - 1 ∧ t.st.toNat = s.st.toNat - 1 ∧
      OnlyChanges (fun p => p = .wait ∨ p = .dt ∨ p = .st ∨ p = .phase ∨ p = .rnd) u t) ∧
  ∀ x op s u (k : Fin 16), s.StepsFrom u → fetch s = some op → decode op = .opFx0A x → s.latch = some k →
    ∃ t, step s = .next t ∧ (t.reg x).toNat = k.val ∧ t.latch = none ∧ t.pc = s.pc + 2 ∧ t.wait = false ∧
      t.dt.toNat = s.dt.toNat - 1 ∧ t.st.toNat = s.st.toNat - 1

/-! ### The STEP cycle -/

/-- R121: the fetch reads the two bytes at PC, high byte first, at any PC up to 4094; from 4095 on the STEP faults with
OutOfBounds and nothing else changes. -/
def Obligations.FetchReadsTwoBytesAtPc : Prop :=
  (∀ s, s.pc.toNat + 1 < 4096 → ∃ op, fetch s = some op ∧
    op.toNat = 256 * (s.byteAt s.pc.toNat).toNat + (s.byteAt (s.pc.toNat + 1)).toNat) ∧
  ∀ s u, s.StepsFrom u → 4096 ≤ s.pc.toNat + 1 → step s = .next { u with fault := some .outOfBounds }

/-- 40_step_cycle, the whole STEP, scheduled (R256) or not: when the two bytes at PC decode to i, `step` is `exec i`, from the
state with the STEP off the schedule and its draw named, followed, when i has raised no fault, by WAIT and both ticks. (`phase`,
`rnd` and `hostOps` are the model's own fields, logs 1 to 3; the last clauses say which state the STEP starts from.) -/
def Obligations.StepRunsDecodedInstruction : Prop :=
  (∀ s u i, s.StepsFrom u → s.pc.toNat + 1 < 4096 → i.wellFormed = true →
    decodeBytes [s.byteAt s.pc.toNat, s.byteAt (s.pc.toNat + 1)] = .ok (i, []) →
    step s = match exec i u with
      | .next v => .next (if v.fault = none then
          { v with
            wait := waitAfter i u
            dt := if v.dt = 0 then 0 else v.dt - 1
            st := if v.st = 0 then 0 else v.st - 1
            phase := .stepping
            rnd := none }
          else v)
      | .fault f => .fault f
      | .refused r => .refused r) ∧
  (∀ s, s.Live → s.StepsFrom s ∧ step s = coreStep s) ∧
  ∀ s r ops, s.hostOps = .step r :: ops → s.phase ≠ .beforeReset → s.fault = none →
    s.StepsFrom { s with hostOps := ops, rnd := some r } ∧ step s = coreStep { s with hostOps := ops, rnd := some r }

/-- R129: a STEP, scheduled or not, that completes writes WAIT, 1 exactly for an Fx0A that found no key latched; one that faults
leaves it. -/
def Obligations.WaitFlagIsWrittenByStep : Prop :=
  ∀ s u t, s.StepsFrom u → step s = .next t →
    (t.fault = none → (t.wait = true ↔ s.latch = none ∧ ∃ op x, fetch s = some op ∧ decode op = .opFx0A x)) ∧
    (t.fault ≠ none → t.wait = s.wait)

/-- 40_step_cycle, Tick: every STEP, scheduled or not, that completes lowers both timers by one, never below 0, on the values the instruction
left (ticking while a key is awaited is the spec's decision D10, log 11); one that faults does not. -/
def Obligations.TimersTickOncePerStep : Prop :=
  ∀ s u t op, s.StepsFrom u → fetch s = some op → step s = .next t →
    (t.fault = none →
      t.dt.toNat = (match decode op with | .opFx15 x => s.reg x | _ => s.dt).toNat - 1 ∧
      t.st.toNat = (match decode op with | .opFx18 x => s.reg x | _ => s.st).toNat - 1) ∧
    (t.fault ≠ none → t.dt = s.dt ∧ t.st = s.st)

/-- 40_step_cycle and 41_control_flow, laws of the family: a call at address a and a return at its target, each executed by a
STEP, scheduled or not, come back to a + 2 with SP as it was. -/
def Obligations.CallThenReturnComesBack : Prop :=
  ∀ s u nnn, s.StepsFrom u → s.sp.val < 16 → s.pc.toNat + 1 < 4096 → nnn.toNat + 1 < 4096 →
    decode (opcodeOfBytes (s.byteAt s.pc.toNat) (s.byteAt (s.pc.toNat + 1))) = .op2nnn nnn →
    decode (opcodeOfBytes (s.byteAt nnn.toNat) (s.byteAt (nnn.toNat + 1))) = .op00EE →
    ∃ t, step s = .next t ∧ t.pc.toNat = nnn.toNat ∧ t.sp.val = s.sp.val + 1 ∧ t.hostOps = u.hostOps ∧
      (s.hostOps = [] → t.StepsFrom t) ∧
      ∀ w, t.StepsFrom w → ∃ v, step t = .next v ∧ v.pc = s.pc + 2 ∧ v.sp = s.sp ∧ v.fault = none

/-- R132: the draw of a STEP matters only to Cxkk: two STEPs, scheduled or not, that start from states differing in nothing but
their draws and execute another instruction end in states differing in nothing but the draws. (`rnd` and `draws` are the model's
own form of the draw, log 2.) -/
def Obligations.DrawMattersOnlyToRandom : Prop :=
  ∀ s u s' u' op, s.StepsFrom u → s'.StepsFrom u' → u' = { u with rnd := u'.rnd, draws := u'.draws } →
    fetch s = some op → (∀ x kk, decode op ≠ .opCxkk x kk) →
    ∃ t t', step s = .next t ∧ step s' = .next t' ∧ t' = { t with rnd := t'.rnd, draws := t'.draws }

/-! ### Faults and frames over all instructions -/

/-- 60_exceptions, fault codes and trap entry: every instruction answers a next state in every state; it raises exactly the
fault of the table, and then nothing but FAULT changes (precise faults are the spec's decision D2, log 6). -/
def Obligations.InstructionsRaiseExactlyTheirFault : Prop :=
  ∀ i s, s.fault = none → ∃ t, exec i s = .next t ∧ t.fault = faultOf i s ∧
    ∀ k, faultOf i s = some k → t = { s with fault := some k }

/-- The frame of every instruction: from R22 and the 'written by' entries of 10_state, an execute phase changes no register,
byte, pixel, slot, key or flag but those its rule names. -/
def Obligations.InstructionsWriteOnlyTheirParts : Prop :=
  ∀ i s t, exec i s = .next t → OnlyChanges (MayWrite i s) s t

/-- 60_exceptions, faults are precise: a STEP of a live core, scheduled or not, that ends with a fault has changed FAULT and
nothing else (D2, log 6); a scheduled one has been taken off the schedule and its draw stays named (`u`; the model's own). -/
def Obligations.FaultingStepChangesOnlyFault : Prop :=
  ∀ s u t k, s.StepsFrom u → step s = .next t → t.fault = some k → t = { u with fault := some k }

/-- 60_exceptions, a faulted core is frozen: STEP, LOAD, KEY_DOWN and KEY_UP change nothing (but use up the scheduled
operation, the model's own list, log 1), and RESET clears the fault (D2, D31, logs 6 and 7). -/
def Obligations.FaultedCoreIsFrozen : Prop :=
  ∀ s k, s.fault = some k → s.phase ≠ .beforeReset →
    (s.hostOps = [] → step s = .next s) ∧
    (∀ op ops, s.hostOps = op :: ops → op ≠ .reset → step s = .next { s with hostOps := ops }) ∧
    ∀ ops, s.hostOps = .reset :: ops → ∃ t, step s = .next t ∧ t.fault = none

/-! ### Reset and the host's operations -/

/-- R23, R301: after RESET, with every FONT, every general register reads 0, the stack is empty, WAIT and FAULT are 0, and the
first STEP fetches the word at 0x200, whatever program lies there. -/
def Obligations.ResetEntryPoint : Prop :=
  ∀ font : Font, (∀ r, (State.resetWith font).reg r = 0) ∧ (State.resetWith font).pc.toNat = 0x200 ∧
    (State.resetWith font).sp.val = 0 ∧ (State.resetWith font).wait = false ∧ (State.resetWith font).fault = none ∧
    ∀ m, fetch { State.resetWith font with mem := m } =
      some (opcodeOfBytes (Memory.read font m 0x200) (Memory.read font m 0x201))

/-- 10_state, reset values: memory is zero but for the font, byte k of FONT at 0x050 + k, for every FONT (R9, R33); I, the slots
and the timers are zero; the values of the framebuffer, the keys and the latch are the spec's decision D13 (log 5). That
`State.reset` is this state for the default FONT is log 4. -/
def Obligations.ResetContents : Prop :=
  (∀ font : Font, (∀ a, a < 0x050 ∨ 0x0A0 ≤ a → (State.resetWith font).byteAt a = 0) ∧
    (∀ k : Fin 80, (State.resetWith font).byteAt (0x050 + k.val) = font[k.val]) ∧
    (State.resetWith font).i = 0 ∧ (∀ k : Fin 16, (State.resetWith font).stack[k.val] = 0) ∧ (State.resetWith font).dt = 0 ∧
    (State.resetWith font).st = 0 ∧ (∀ py px, (State.resetWith font).pixel py px = false) ∧
    (∀ k : Fin 16, (State.resetWith font).key[k.val] = false) ∧ (State.resetWith font).latch = none) ∧
  State.reset = State.resetWith Config.defaultFont

/-- 00_scope, open parameters: FONT is an argument of the machine. No operation changes it, and with the parameter replaced at
RESET the font region, and nothing else, holds the other bytes. (Held as the field `font`, log 4.) -/
def Obligations.FontIsAParameter : Prop :=
  (∀ s t, step s = .next t → t.font = s.font) ∧
  ∀ (font : Font) s ops, s.hostOps = .reset :: ops →
    ∃ t t', step s = .next t ∧ step { s with font := font } = .next t' ∧ t' = { t with font := font } ∧
      (∀ k : Fin 80, t'.byteAt (0x050 + k.val) = font[k.val]) ∧
      ∀ a, a < 0x050 ∨ 0x0A0 ≤ a → t'.byteAt a = t.byteAt a

/-- R251: RESET, in any state, faulted or before any other operation, gives every piece of the core's state its reset value,
for the machine's FONT; a loaded ROM is erased. (The rest of the schedule and the index of the free draws are the model's own
and stay, log 21.) -/
def Obligations.ResetOperationRestoresAll : Prop :=
  ∀ s ops, s.hostOps = .reset :: ops →
    step s = .next { State.resetWith s.font with hostOps := ops, draws := s.draws }

/-- R252: LOAD puts byte i of the ROM at 0x200 + i and changes no other byte; more than 3584 bytes raise RomTooLarge and
nothing else changes. -/
def Obligations.LoadCopiesRom : Prop :=
  (∀ s bytes ops, s.hostOps = .load bytes :: ops → s.phase = .afterReset → s.fault = none → bytes.length ≤ 3584 →
    ∃ t, step s = .next t ∧ (∀ k < bytes.length, bytes[k]? = some (t.byteAt (0x200 + k))) ∧ t.fault = none ∧
      t.hostOps = ops ∧
      OnlyChanges (fun p => (∃ k < bytes.length, p = .byte (0x200 + k)) ∨ p = .hostOps ∨ p = .phase) s t) ∧
  ∀ s bytes ops, s.hostOps = .load bytes :: ops → s.phase = .afterReset → s.fault = none → 3584 < bytes.length →
    step s = .next { s with hostOps := ops, fault := some .romTooLarge }

/-- R253, R254: a press sets the key's flag and the latch; a release clears the flag, and the latch only if it names the key;
a key above 15 raises InvalidKey. -/
def Obligations.KeyEventsMoveFlagAndLatch : Prop :=
  (∀ s (k : Fin 16) ops, s.hostOps = .keyDown k.val :: ops → s.phase ≠ .beforeReset → s.fault = none →
    ∃ t, step s = .next t ∧ t.key[k.val] = true ∧ t.latch = some k ∧ t.hostOps = ops ∧
      OnlyChanges (fun p => p = .key k ∨ p = .latch ∨ p = .hostOps) s t) ∧
  (∀ s (k : Fin 16) ops, s.hostOps = .keyUp k.val :: ops → s.phase ≠ .beforeReset → s.fault = none →
    ∃ t, step s = .next t ∧ t.key[k.val] = false ∧ (s.latch = some k → t.latch = none) ∧
      (s.latch ≠ some k → t.latch = s.latch) ∧ t.hostOps = ops ∧
      OnlyChanges (fun p => p = .key k ∨ p = .latch ∨ p = .hostOps) s t) ∧
  ∀ s k ops, 15 < k → (s.hostOps = .keyDown k :: ops ∨ s.hostOps = .keyUp k :: ops) → s.phase ≠ .beforeReset →
    s.fault = none → step s = .next { s with hostOps := ops, fault := some .invalidKey }

/-- 47_host_operations and 42_register_alu, the draw of a STEP: STEP(rnd) executes Cxkk with `rnd`; a STEP for which the
host has named no draw executes it with the next free one, whatever its value (the model's own form of the input, log 2). -/
def Obligations.StepTakesItsDraw : Prop :=
  (∀ s r ops op x kk, s.hostOps = .step r :: ops → s.phase ≠ .beforeReset → s.fault = none →
    fetch s = some op → decode op = .opCxkk x kk →
    ∃ t, step s = .next t ∧ t.reg x = r &&& kk ∧ t.pc = s.pc + 2 ∧ t.fault = none ∧ t.rnd = none ∧ t.hostOps = ops) ∧
  ∀ s op x kk, s.Live → s.rnd = none → fetch s = some op → decode op = .opCxkk x kk →
    ∃ t, step s = .next t ∧ t.reg x = Config.freeDraw s.draws &&& kk ∧ t.draws = s.draws + 1 ∧ t.pc = s.pc + 2

/-- 47_host_operations, protocol (D17, log 3): before the first RESET every operation but RESET is refused, and so is a LOAD
after a LOAD or after a STEP on a core with no fault; a LOAD that completes, and a STEP that completes, scheduled or not, are what
move the model's own `phase` there. -/
def Obligations.OutOfProtocolIsRefused : Prop :=
  (∀ s, s.hostOps = [] → s.phase = .beforeReset → step s = .refused .beforeReset) ∧
  (∀ s op ops, s.hostOps = op :: ops → op ≠ .reset → s.phase = .beforeReset → step s = .refused .beforeReset) ∧
  (∀ s bytes ops, s.hostOps = .load bytes :: ops → s.fault = none → s.phase = .loaded ∨ s.phase = .stepping →
    step s = .refused .loadOutOfProtocol) ∧
  (∀ s t bytes ops, s.hostOps = .load bytes :: ops → step s = .next t → t.fault = none → t.phase = .loaded) ∧
  ∀ s u t, s.StepsFrom u → step s = .next t → t.fault = none → t.phase = .stepping

/-- 47_host_operations, outputs (the linear order is the spec's decision D16, log 13): bit py * 64 + px of `fb` is the pixel,
`sound_on` is ST ≠ 0, `waiting` is WAIT, `fault` is 0 exactly for no fault and 1 to 6 for the kinds in the order of
60_exceptions (the codes are the spec's decision D3, log 6). -/
def Obligations.OutputsShowTheState : Prop :=
  ∀ s : State,
    (∀ py px, py < 32 → px < 64 → s.fbOut.getLsbD (py * 64 + px) = s.pixel py px) ∧
    (s.soundOn = true ↔ s.st.toNat ≠ 0) ∧ s.waitingOut = s.wait ∧ (s.faultOut = 0 ↔ s.fault = none) ∧
    (s.faultOut = 1 ↔ s.fault = some .outOfBounds) ∧ (s.faultOut = 2 ↔ s.fault = some .romTooLarge) ∧
    (s.faultOut = 3 ↔ s.fault = some .stackOverflow) ∧ (s.faultOut = 4 ↔ s.fault = some .stackUnderflow) ∧
    (s.faultOut = 5 ↔ s.fault = some .invalidRegister) ∧ (s.faultOut = 6 ↔ s.fault = some .invalidKey) ∧
    ∀ s' : State, s.faultOut = s'.faultOut → s.fault = s'.fault

/-! ### Invariants -/

/-- Every operation keeps `State.WellFormed`. Of 10_state's well-formed state it holds PC ≤ 0x10FE, live return addresses ≤
0x1000, and while WAIT is set PC at an Fx0A that can be fetched. Two of its conditions are the MODEL'S OWN choices and no rule
of the spec: the canonical form of the memory list (DESIGN CHOICE, log 16), and that while WAIT is set `phase` is `stepping`
(DESIGN CHOICE, log 3). -/
def Obligations.StepKeepsWellFormed : Prop :=
  ∀ s t, s.WellFormed → step s = .next t → t.WellFormed

/-- The state after RESET is well formed, for every FONT. Of `State.WellFormed`, the canonical form of the memory list (DESIGN
CHOICE, log 16) and the condition on `phase` while WAIT is set (DESIGN CHOICE, log 3) are the MODEL'S OWN and no rule of the
spec; the rest is 10_state's well-formed state. -/
def Obligations.ResetIsWellFormed : Prop := ∀ font : Font, (State.resetWith font).WellFormed

/-- Every operation keeps the canonical form of the memory list, from any state whose memory has it, reached or not. The form
(addresses strictly rising and below 4096, no entry equal to what an unlisted address reads as) is the MODEL'S OWN choice of
data and no rule of the spec (DESIGN CHOICE, log 16). -/
def Obligations.StepKeepsCanonicalMemory : Prop :=
  ∀ s t, Memory.wf s.font s.mem = true → step s = .next t → Memory.wf t.font t.mem = true

/-- No operation ends in a fault of the model, and the only refusals are the host's breaches of its protocol (log 3, log 6). -/
def Obligations.OnlyProtocolBreachesStop : Prop :=
  ∀ s, (∃ t, step s = .next t) ∨ step s = .refused .beforeReset ∧ s.phase = .beforeReset ∨
    step s = .refused .loadOutOfProtocol ∧ s.phase ≠ .afterReset ∧ ∃ bytes ops, s.hostOps = .load bytes :: ops
end

