-- ==== Sys2Proof/Laws/Decode.lean ====
section
/-! SUPPORT. The fields of encoded words, and the shape of a word from its fields: what decoding and encoding proofs cite. -/

namespace Sys2Proof

/-! ### Fields as numbers -/

theorem opF_toNat (op : Word) : (opF op).toNat = op.toNat / 4096 := by
  have := op.isLt
  simp only [opF, BitVec.extractLsb'_toNat, Nat.shiftRight_eq_div_pow]; omega

theorem opXBits_toNat (op : Word) : (opXBits op).toNat = op.toNat / 256 % 16 := by
  simp only [opXBits, BitVec.extractLsb'_toNat, Nat.shiftRight_eq_div_pow, Nat.reducePow]

theorem opYBits_toNat (op : Word) : (opYBits op).toNat = op.toNat / 16 % 16 := by
  simp only [opYBits, BitVec.extractLsb'_toNat, Nat.shiftRight_eq_div_pow, Nat.reducePow]

theorem opN_toNat (op : Word) : (opN op).toNat = op.toNat % 16 := by
  simp only [opN, BitVec.extractLsb'_toNat, Nat.shiftRight_eq_div_pow, pow_zero, Nat.div_one, Nat.reducePow]

theorem opKk_toNat (op : Word) : (opKk op).toNat = op.toNat % 256 := by
  simp only [opKk, BitVec.extractLsb'_toNat, Nat.shiftRight_eq_div_pow, pow_zero, Nat.div_one, Nat.reducePow]

theorem opNnn_toNat (op : Word) : (opNnn op).toNat = op.toNat % 4096 := by
  simp only [opNnn, BitVec.extractLsb'_toNat, Nat.shiftRight_eq_div_pow, pow_zero, Nat.div_one, Nat.reducePow]

theorem append_toNat {m n : Nat} (a : BitVec m) (b : BitVec n) : (a ++ b).toNat = a.toNat * 2 ^ n + b.toNat := by
  rw [BitVec.toNat_append, ← Nat.shiftLeft_add_eq_or_of_lt b.isLt, Nat.shiftLeft_eq]

theorem wordOfNibbles_toNat (f x y n : Nibble) :
    (wordOfNibbles f x y n).toNat = f.toNat * 4096 + x.toNat * 256 + y.toNat * 16 + n.toNat := by
  simp only [wordOfNibbles, append_toNat]; omega

theorem wordOfXkk_toNat (f x : Nibble) (kk : Byte) :
    (wordOfXkk f x kk).toNat = f.toNat * 4096 + x.toNat * 256 + kk.toNat := by
  simp only [wordOfXkk, append_toNat]; omega

theorem wordOfNnn_toNat (f : Nibble) (nnn : Imm12) : (wordOfNnn f nnn).toNat = f.toNat * 4096 + nnn.toNat := by
  simp only [wordOfNnn, append_toNat, Nat.reducePow]

/-! ### Fields of a word built from fields -/

@[simp] theorem opF_wordOfNibbles (f x y n : Nibble) : opF (wordOfNibbles f x y n) = f := by
  apply BitVec.eq_of_toNat_eq; rw [opF_toNat, wordOfNibbles_toNat]; omega

@[simp] theorem opXBits_wordOfNibbles (f x y n : Nibble) : opXBits (wordOfNibbles f x y n) = x := by
  apply BitVec.eq_of_toNat_eq; rw [opXBits_toNat, wordOfNibbles_toNat]; omega

@[simp] theorem opYBits_wordOfNibbles (f x y n : Nibble) : opYBits (wordOfNibbles f x y n) = y := by
  apply BitVec.eq_of_toNat_eq; rw [opYBits_toNat, wordOfNibbles_toNat]; omega

@[simp] theorem opN_wordOfNibbles (f x y n : Nibble) : opN (wordOfNibbles f x y n) = n := by
  apply BitVec.eq_of_toNat_eq; rw [opN_toNat, wordOfNibbles_toNat]; omega

@[simp] theorem opF_wordOfXkk (f x : Nibble) (kk : Byte) : opF (wordOfXkk f x kk) = f := by
  apply BitVec.eq_of_toNat_eq; rw [opF_toNat, wordOfXkk_toNat]; omega

@[simp] theorem opXBits_wordOfXkk (f x : Nibble) (kk : Byte) : opXBits (wordOfXkk f x kk) = x := by
  apply BitVec.eq_of_toNat_eq; rw [opXBits_toNat, wordOfXkk_toNat]; omega

@[simp] theorem opKk_wordOfXkk (f x : Nibble) (kk : Byte) : opKk (wordOfXkk f x kk) = kk := by
  apply BitVec.eq_of_toNat_eq; rw [opKk_toNat, wordOfXkk_toNat]; omega

@[simp] theorem opF_wordOfNnn (f : Nibble) (nnn : Imm12) : opF (wordOfNnn f nnn) = f := by
  apply BitVec.eq_of_toNat_eq; rw [opF_toNat, wordOfNnn_toNat]; omega

@[simp] theorem opNnn_wordOfNnn (f : Nibble) (nnn : Imm12) : opNnn (wordOfNnn f nnn) = nnn := by
  apply BitVec.eq_of_toNat_eq; rw [opNnn_toNat, wordOfNnn_toNat]; omega

/-! ### A word from its fields -/

theorem wordOfNibbles_fields (op : Word) : wordOfNibbles (opF op) (opXBits op) (opYBits op) (opN op) = op := by
  apply BitVec.eq_of_toNat_eq
  rw [wordOfNibbles_toNat, opF_toNat, opXBits_toNat, opYBits_toNat, opN_toNat]; omega

theorem wordOfXkk_fields (op : Word) : wordOfXkk (opF op) (opXBits op) (opKk op) = op := by
  apply BitVec.eq_of_toNat_eq
  rw [wordOfXkk_toNat, opF_toNat, opXBits_toNat, opKk_toNat]; omega

theorem wordOfNnn_fields (op : Word) : wordOfNnn (opF op) (opNnn op) = op := by
  apply BitVec.eq_of_toNat_eq
  rw [wordOfNnn_toNat, opF_toNat, opNnn_toNat]; omega

/-! ### Registers and their fields -/

@[simp] theorem regOfBits_bitsOfReg (r : Reg) : regOfBits (bitsOfReg r) = r := by
  apply Fin.ext
  simp only [regOfBits, bitsOfReg, BitVec.toNat_ofNat]
  exact Nat.mod_eq_of_lt r.isLt

@[simp] theorem bitsOfReg_regOfBits (b : Nibble) : bitsOfReg (regOfBits b) = b := by
  simp [regOfBits, bitsOfReg]

/-! ### Masks as fields (R91, R94) -/

theorem and_append {m n : Nat} (a c : BitVec m) (b d : BitVec n) : (a ++ b) &&& (c ++ d) = (a &&& c) ++ (b &&& d) := by
  apply BitVec.eq_of_getLsbD_eq
  intro k hk
  simp only [BitVec.getLsbD_and, BitVec.getLsbD_append]
  split <;> rfl

theorem and_wordOfNibbles (f x y n f' x' y' n' : Nibble) :
    wordOfNibbles f x y n &&& wordOfNibbles f' x' y' n' = wordOfNibbles (f &&& f') (x &&& x') (y &&& y') (n &&& n') := by
  simp only [wordOfNibbles]
  exact (and_append _ _ _ _).trans (by rw [and_append, and_append])

theorem and_wordOfXkk (f x f' x' : Nibble) (k k' : Byte) :
    wordOfXkk f x k &&& wordOfXkk f' x' k' = wordOfXkk (f &&& f') (x &&& x') (k &&& k') := by
  simp only [wordOfXkk]
  exact (and_append _ _ _ _).trans (by rw [and_append])

theorem and_nibble_zero (b : Nibble) : b &&& 0 = 0 := BitVec.and_zero

theorem and_F000 (op : Word) : op &&& 0xF000 = wordOfNibbles (opF op) 0 0 0 := by
  conv_lhs => rw [← wordOfNibbles_fields op, show (0xF000 : Word) = wordOfNibbles (BitVec.allOnes 4) 0 0 0 by decide,
    and_wordOfNibbles]
  simp only [BitVec.and_allOnes, and_nibble_zero]

theorem and_F00F (op : Word) : op &&& 0xF00F = wordOfNibbles (opF op) 0 0 (opN op) := by
  conv_lhs => rw [← wordOfNibbles_fields op,
    show (0xF00F : Word) = wordOfNibbles (BitVec.allOnes 4) 0 0 (BitVec.allOnes 4) by decide, and_wordOfNibbles]
  simp only [BitVec.and_allOnes, and_nibble_zero]

theorem and_F0FF (op : Word) : op &&& 0xF0FF = wordOfXkk (opF op) 0 (opKk op) := by
  conv_lhs => rw [← wordOfXkk_fields op, show (0xF0FF : Word) = wordOfXkk (BitVec.allOnes 4) 0 (BitVec.allOnes 8) by decide,
    and_wordOfXkk]
  simp only [BitVec.and_allOnes, and_nibble_zero]

theorem and_FFFF (op : Word) : op &&& 0xFFFF = op := by
  simpa using BitVec.and_allOnes (x := op)

/-- A word matches a mask of the family nibble alone exactly when its family is that of the value. -/
theorem and_F000_eq (op : Word) (f : Nibble) : op &&& 0xF000 = wordOfNibbles f 0 0 0 ↔ opF op = f := by
  rw [and_F000]
  exact ⟨fun h => by simpa using congrArg opF h, fun h => by rw [h]⟩

theorem and_F00F_eq (op : Word) (f n : Nibble) :
    op &&& 0xF00F = wordOfNibbles f 0 0 n ↔ opF op = f ∧ opN op = n := by
  rw [and_F00F]
  exact ⟨fun h => ⟨by simpa using congrArg opF h, by simpa using congrArg opN h⟩, fun h => by rw [h.1, h.2]⟩

theorem and_F0FF_eq (op : Word) (f : Nibble) (k : Byte) :
    op &&& 0xF0FF = wordOfXkk f 0 k ↔ opF op = f ∧ opKk op = k := by
  rw [and_F0FF]
  exact ⟨fun h => ⟨by simpa using congrArg opF h, by simpa using congrArg opKk h⟩, fun h => by rw [h.1, h.2]⟩

end Sys2Proof
end

