-- ==== Sys2Proof/Laws/State.lean ====
section
/-! SUPPORT. One lemma per field per named update of State, each true by rfl, so that no later proof unfolds a record
update; then what the observations `reg`, `byteAt`, `pixel` give after each update. -/

namespace Sys2Proof.Machine

variable (s : State)

/-! ### After `setReg` -/

@[simp] theorem State.setReg_v (r : Reg) (b : Byte) : (s.setReg r b).v = s.v.set r.val b := rfl
@[simp] theorem State.setReg_i (r : Reg) (b : Byte) : (s.setReg r b).i = s.i := rfl
@[simp] theorem State.setReg_pc (r : Reg) (b : Byte) : (s.setReg r b).pc = s.pc := rfl
@[simp] theorem State.setReg_stack (r : Reg) (b : Byte) : (s.setReg r b).stack = s.stack := rfl
@[simp] theorem State.setReg_sp (r : Reg) (b : Byte) : (s.setReg r b).sp = s.sp := rfl
@[simp] theorem State.setReg_mem (r : Reg) (b : Byte) : (s.setReg r b).mem = s.mem := rfl
@[simp] theorem State.setReg_font (r : Reg) (b : Byte) : (s.setReg r b).font = s.font := rfl
@[simp] theorem State.setReg_fb (r : Reg) (b : Byte) : (s.setReg r b).fb = s.fb := rfl
@[simp] theorem State.setReg_key (r : Reg) (b : Byte) : (s.setReg r b).key = s.key := rfl
@[simp] theorem State.setReg_latch (r : Reg) (b : Byte) : (s.setReg r b).latch = s.latch := rfl
@[simp] theorem State.setReg_dt (r : Reg) (b : Byte) : (s.setReg r b).dt = s.dt := rfl
@[simp] theorem State.setReg_st (r : Reg) (b : Byte) : (s.setReg r b).st = s.st := rfl
@[simp] theorem State.setReg_wait (r : Reg) (b : Byte) : (s.setReg r b).wait = s.wait := rfl
@[simp] theorem State.setReg_fault (r : Reg) (b : Byte) : (s.setReg r b).fault = s.fault := rfl
@[simp] theorem State.setReg_rnd (r : Reg) (b : Byte) : (s.setReg r b).rnd = s.rnd := rfl
@[simp] theorem State.setReg_draws (r : Reg) (b : Byte) : (s.setReg r b).draws = s.draws := rfl
@[simp] theorem State.setReg_hostOps (r : Reg) (b : Byte) : (s.setReg r b).hostOps = s.hostOps := rfl
@[simp] theorem State.setReg_phase (r : Reg) (b : Byte) : (s.setReg r b).phase = s.phase := rfl
@[simp] theorem State.setReg_byteAt (r : Reg) (b : Byte) (c : Nat) : (s.setReg r b).byteAt c = s.byteAt c := rfl
@[simp] theorem State.setReg_pixel (r : Reg) (b : Byte) (py px : Nat) : (s.setReg r b).pixel py px = s.pixel py px := rfl
@[simp] theorem State.setReg_pcn (r : Reg) (b : Byte) : (s.setReg r b).pcn = s.pcn := rfl

/-! ### After `setRegs` -/

@[simp] theorem State.setRegs_v (v : Vector Byte 16) : (s.setRegs v).v = v := rfl
@[simp] theorem State.setRegs_i (v : Vector Byte 16) : (s.setRegs v).i = s.i := rfl
@[simp] theorem State.setRegs_pc (v : Vector Byte 16) : (s.setRegs v).pc = s.pc := rfl
@[simp] theorem State.setRegs_stack (v : Vector Byte 16) : (s.setRegs v).stack = s.stack := rfl
@[simp] theorem State.setRegs_sp (v : Vector Byte 16) : (s.setRegs v).sp = s.sp := rfl
@[simp] theorem State.setRegs_mem (v : Vector Byte 16) : (s.setRegs v).mem = s.mem := rfl
@[simp] theorem State.setRegs_font (v : Vector Byte 16) : (s.setRegs v).font = s.font := rfl
@[simp] theorem State.setRegs_fb (v : Vector Byte 16) : (s.setRegs v).fb = s.fb := rfl
@[simp] theorem State.setRegs_key (v : Vector Byte 16) : (s.setRegs v).key = s.key := rfl
@[simp] theorem State.setRegs_latch (v : Vector Byte 16) : (s.setRegs v).latch = s.latch := rfl
@[simp] theorem State.setRegs_dt (v : Vector Byte 16) : (s.setRegs v).dt = s.dt := rfl
@[simp] theorem State.setRegs_st (v : Vector Byte 16) : (s.setRegs v).st = s.st := rfl
@[simp] theorem State.setRegs_wait (v : Vector Byte 16) : (s.setRegs v).wait = s.wait := rfl
@[simp] theorem State.setRegs_fault (v : Vector Byte 16) : (s.setRegs v).fault = s.fault := rfl
@[simp] theorem State.setRegs_rnd (v : Vector Byte 16) : (s.setRegs v).rnd = s.rnd := rfl
@[simp] theorem State.setRegs_draws (v : Vector Byte 16) : (s.setRegs v).draws = s.draws := rfl
@[simp] theorem State.setRegs_hostOps (v : Vector Byte 16) : (s.setRegs v).hostOps = s.hostOps := rfl
@[simp] theorem State.setRegs_phase (v : Vector Byte 16) : (s.setRegs v).phase = s.phase := rfl
@[simp] theorem State.setRegs_byteAt (v : Vector Byte 16) (c : Nat) : (s.setRegs v).byteAt c = s.byteAt c := rfl
@[simp] theorem State.setRegs_pixel (v : Vector Byte 16) (py px : Nat) : (s.setRegs v).pixel py px = s.pixel py px := rfl
@[simp] theorem State.setRegs_pcn (v : Vector Byte 16) : (s.setRegs v).pcn = s.pcn := rfl

/-! ### After `setI` -/

@[simp] theorem State.setI_v (w : Word) : (s.setI w).v = s.v := rfl
@[simp] theorem State.setI_i (w : Word) : (s.setI w).i = w := rfl
@[simp] theorem State.setI_pc (w : Word) : (s.setI w).pc = s.pc := rfl
@[simp] theorem State.setI_stack (w : Word) : (s.setI w).stack = s.stack := rfl
@[simp] theorem State.setI_sp (w : Word) : (s.setI w).sp = s.sp := rfl
@[simp] theorem State.setI_mem (w : Word) : (s.setI w).mem = s.mem := rfl
@[simp] theorem State.setI_font (w : Word) : (s.setI w).font = s.font := rfl
@[simp] theorem State.setI_fb (w : Word) : (s.setI w).fb = s.fb := rfl
@[simp] theorem State.setI_key (w : Word) : (s.setI w).key = s.key := rfl
@[simp] theorem State.setI_latch (w : Word) : (s.setI w).latch = s.latch := rfl
@[simp] theorem State.setI_dt (w : Word) : (s.setI w).dt = s.dt := rfl
@[simp] theorem State.setI_st (w : Word) : (s.setI w).st = s.st := rfl
@[simp] theorem State.setI_wait (w : Word) : (s.setI w).wait = s.wait := rfl
@[simp] theorem State.setI_fault (w : Word) : (s.setI w).fault = s.fault := rfl
@[simp] theorem State.setI_rnd (w : Word) : (s.setI w).rnd = s.rnd := rfl
@[simp] theorem State.setI_draws (w : Word) : (s.setI w).draws = s.draws := rfl
@[simp] theorem State.setI_hostOps (w : Word) : (s.setI w).hostOps = s.hostOps := rfl
@[simp] theorem State.setI_phase (w : Word) : (s.setI w).phase = s.phase := rfl
@[simp] theorem State.setI_byteAt (w : Word) (c : Nat) : (s.setI w).byteAt c = s.byteAt c := rfl
@[simp] theorem State.setI_pixel (w : Word) (py px : Nat) : (s.setI w).pixel py px = s.pixel py px := rfl
@[simp] theorem State.setI_pcn (w : Word) : (s.setI w).pcn = s.pcn := rfl
@[simp] theorem State.setI_reg (w : Word) (q : Reg) : (s.setI w).reg q = s.reg q := rfl

/-! ### After `setPc` -/

@[simp] theorem State.setPc_v (w : Word) : (s.setPc w).v = s.v := rfl
@[simp] theorem State.setPc_i (w : Word) : (s.setPc w).i = s.i := rfl
@[simp] theorem State.setPc_pc (w : Word) : (s.setPc w).pc = w := rfl
@[simp] theorem State.setPc_stack (w : Word) : (s.setPc w).stack = s.stack := rfl
@[simp] theorem State.setPc_sp (w : Word) : (s.setPc w).sp = s.sp := rfl
@[simp] theorem State.setPc_mem (w : Word) : (s.setPc w).mem = s.mem := rfl
@[simp] theorem State.setPc_font (w : Word) : (s.setPc w).font = s.font := rfl
@[simp] theorem State.setPc_fb (w : Word) : (s.setPc w).fb = s.fb := rfl
@[simp] theorem State.setPc_key (w : Word) : (s.setPc w).key = s.key := rfl
@[simp] theorem State.setPc_latch (w : Word) : (s.setPc w).latch = s.latch := rfl
@[simp] theorem State.setPc_dt (w : Word) : (s.setPc w).dt = s.dt := rfl
@[simp] theorem State.setPc_st (w : Word) : (s.setPc w).st = s.st := rfl
@[simp] theorem State.setPc_wait (w : Word) : (s.setPc w).wait = s.wait := rfl
@[simp] theorem State.setPc_fault (w : Word) : (s.setPc w).fault = s.fault := rfl
@[simp] theorem State.setPc_rnd (w : Word) : (s.setPc w).rnd = s.rnd := rfl
@[simp] theorem State.setPc_draws (w : Word) : (s.setPc w).draws = s.draws := rfl
@[simp] theorem State.setPc_hostOps (w : Word) : (s.setPc w).hostOps = s.hostOps := rfl
@[simp] theorem State.setPc_phase (w : Word) : (s.setPc w).phase = s.phase := rfl
@[simp] theorem State.setPc_byteAt (w : Word) (c : Nat) : (s.setPc w).byteAt c = s.byteAt c := rfl
@[simp] theorem State.setPc_pixel (w : Word) (py px : Nat) : (s.setPc w).pixel py px = s.pixel py px := rfl
@[simp] theorem State.setPc_reg (w : Word) (q : Reg) : (s.setPc w).reg q = s.reg q := rfl

/-! ### After `setMem` -/

@[simp] theorem State.setMem_v (m : List Host.Cell) : (s.setMem m).v = s.v := rfl
@[simp] theorem State.setMem_i (m : List Host.Cell) : (s.setMem m).i = s.i := rfl
@[simp] theorem State.setMem_pc (m : List Host.Cell) : (s.setMem m).pc = s.pc := rfl
@[simp] theorem State.setMem_stack (m : List Host.Cell) : (s.setMem m).stack = s.stack := rfl
@[simp] theorem State.setMem_sp (m : List Host.Cell) : (s.setMem m).sp = s.sp := rfl
@[simp] theorem State.setMem_mem (m : List Host.Cell) : (s.setMem m).mem = m := rfl
@[simp] theorem State.setMem_font (m : List Host.Cell) : (s.setMem m).font = s.font := rfl
@[simp] theorem State.setMem_fb (m : List Host.Cell) : (s.setMem m).fb = s.fb := rfl
@[simp] theorem State.setMem_key (m : List Host.Cell) : (s.setMem m).key = s.key := rfl
@[simp] theorem State.setMem_latch (m : List Host.Cell) : (s.setMem m).latch = s.latch := rfl
@[simp] theorem State.setMem_dt (m : List Host.Cell) : (s.setMem m).dt = s.dt := rfl
@[simp] theorem State.setMem_st (m : List Host.Cell) : (s.setMem m).st = s.st := rfl
@[simp] theorem State.setMem_wait (m : List Host.Cell) : (s.setMem m).wait = s.wait := rfl
@[simp] theorem State.setMem_fault (m : List Host.Cell) : (s.setMem m).fault = s.fault := rfl
@[simp] theorem State.setMem_rnd (m : List Host.Cell) : (s.setMem m).rnd = s.rnd := rfl
@[simp] theorem State.setMem_draws (m : List Host.Cell) : (s.setMem m).draws = s.draws := rfl
@[simp] theorem State.setMem_hostOps (m : List Host.Cell) : (s.setMem m).hostOps = s.hostOps := rfl
@[simp] theorem State.setMem_phase (m : List Host.Cell) : (s.setMem m).phase = s.phase := rfl
@[simp] theorem State.setMem_pixel (m : List Host.Cell) (py px : Nat) : (s.setMem m).pixel py px = s.pixel py px := rfl
@[simp] theorem State.setMem_pcn (m : List Host.Cell) : (s.setMem m).pcn = s.pcn := rfl
@[simp] theorem State.setMem_reg (m : List Host.Cell) (q : Reg) : (s.setMem m).reg q = s.reg q := rfl

/-! ### After `setFb` -/

@[simp] theorem State.setFb_v (fb : Vector PixelRow 32) : (s.setFb fb).v = s.v := rfl
@[simp] theorem State.setFb_i (fb : Vector PixelRow 32) : (s.setFb fb).i = s.i := rfl
@[simp] theorem State.setFb_pc (fb : Vector PixelRow 32) : (s.setFb fb).pc = s.pc := rfl
@[simp] theorem State.setFb_stack (fb : Vector PixelRow 32) : (s.setFb fb).stack = s.stack := rfl
@[simp] theorem State.setFb_sp (fb : Vector PixelRow 32) : (s.setFb fb).sp = s.sp := rfl
@[simp] theorem State.setFb_mem (fb : Vector PixelRow 32) : (s.setFb fb).mem = s.mem := rfl
@[simp] theorem State.setFb_font (fb : Vector PixelRow 32) : (s.setFb fb).font = s.font := rfl
@[simp] theorem State.setFb_fb (fb : Vector PixelRow 32) : (s.setFb fb).fb = fb := rfl
@[simp] theorem State.setFb_key (fb : Vector PixelRow 32) : (s.setFb fb).key = s.key := rfl
@[simp] theorem State.setFb_latch (fb : Vector PixelRow 32) : (s.setFb fb).latch = s.latch := rfl
@[simp] theorem State.setFb_dt (fb : Vector PixelRow 32) : (s.setFb fb).dt = s.dt := rfl
@[simp] theorem State.setFb_st (fb : Vector PixelRow 32) : (s.setFb fb).st = s.st := rfl
@[simp] theorem State.setFb_wait (fb : Vector PixelRow 32) : (s.setFb fb).wait = s.wait := rfl
@[simp] theorem State.setFb_fault (fb : Vector PixelRow 32) : (s.setFb fb).fault = s.fault := rfl
@[simp] theorem State.setFb_rnd (fb : Vector PixelRow 32) : (s.setFb fb).rnd = s.rnd := rfl
@[simp] theorem State.setFb_draws (fb : Vector PixelRow 32) : (s.setFb fb).draws = s.draws := rfl
@[simp] theorem State.setFb_hostOps (fb : Vector PixelRow 32) : (s.setFb fb).hostOps = s.hostOps := rfl
@[simp] theorem State.setFb_phase (fb : Vector PixelRow 32) : (s.setFb fb).phase = s.phase := rfl
@[simp] theorem State.setFb_byteAt (fb : Vector PixelRow 32) (c : Nat) : (s.setFb fb).byteAt c = s.byteAt c := rfl
@[simp] theorem State.setFb_pcn (fb : Vector PixelRow 32) : (s.setFb fb).pcn = s.pcn := rfl
@[simp] theorem State.setFb_reg (fb : Vector PixelRow 32) (q : Reg) : (s.setFb fb).reg q = s.reg q := rfl

/-! ### After `setLatch` -/

@[simp] theorem State.setLatch_v (k : Option (Fin 16)) : (s.setLatch k).v = s.v := rfl
@[simp] theorem State.setLatch_i (k : Option (Fin 16)) : (s.setLatch k).i = s.i := rfl
@[simp] theorem State.setLatch_pc (k : Option (Fin 16)) : (s.setLatch k).pc = s.pc := rfl
@[simp] theorem State.setLatch_stack (k : Option (Fin 16)) : (s.setLatch k).stack = s.stack := rfl
@[simp] theorem State.setLatch_sp (k : Option (Fin 16)) : (s.setLatch k).sp = s.sp := rfl
@[simp] theorem State.setLatch_mem (k : Option (Fin 16)) : (s.setLatch k).mem = s.mem := rfl
@[simp] theorem State.setLatch_font (k : Option (Fin 16)) : (s.setLatch k).font = s.font := rfl
@[simp] theorem State.setLatch_fb (k : Option (Fin 16)) : (s.setLatch k).fb = s.fb := rfl
@[simp] theorem State.setLatch_key (k : Option (Fin 16)) : (s.setLatch k).key = s.key := rfl
@[simp] theorem State.setLatch_latch (k : Option (Fin 16)) : (s.setLatch k).latch = k := rfl
@[simp] theorem State.setLatch_dt (k : Option (Fin 16)) : (s.setLatch k).dt = s.dt := rfl
@[simp] theorem State.setLatch_st (k : Option (Fin 16)) : (s.setLatch k).st = s.st := rfl
@[simp] theorem State.setLatch_wait (k : Option (Fin 16)) : (s.setLatch k).wait = s.wait := rfl
@[simp] theorem State.setLatch_fault (k : Option (Fin 16)) : (s.setLatch k).fault = s.fault := rfl
@[simp] theorem State.setLatch_rnd (k : Option (Fin 16)) : (s.setLatch k).rnd = s.rnd := rfl
@[simp] theorem State.setLatch_draws (k : Option (Fin 16)) : (s.setLatch k).draws = s.draws := rfl
@[simp] theorem State.setLatch_hostOps (k : Option (Fin 16)) : (s.setLatch k).hostOps = s.hostOps := rfl
@[simp] theorem State.setLatch_phase (k : Option (Fin 16)) : (s.setLatch k).phase = s.phase := rfl
@[simp] theorem State.setLatch_byteAt (k : Option (Fin 16)) (c : Nat) : (s.setLatch k).byteAt c = s.byteAt c := rfl
@[simp] theorem State.setLatch_pixel (k : Option (Fin 16)) (py px : Nat) : (s.setLatch k).pixel py px = s.pixel py px := rfl
@[simp] theorem State.setLatch_pcn (k : Option (Fin 16)) : (s.setLatch k).pcn = s.pcn := rfl
@[simp] theorem State.setLatch_reg (k : Option (Fin 16)) (q : Reg) : (s.setLatch k).reg q = s.reg q := rfl

/-! ### After `setKey` -/

@[simp] theorem State.setKey_v (k : Fin 16) (d : Bool) : (s.setKey k d).v = s.v := rfl
@[simp] theorem State.setKey_i (k : Fin 16) (d : Bool) : (s.setKey k d).i = s.i := rfl
@[simp] theorem State.setKey_pc (k : Fin 16) (d : Bool) : (s.setKey k d).pc = s.pc := rfl
@[simp] theorem State.setKey_stack (k : Fin 16) (d : Bool) : (s.setKey k d).stack = s.stack := rfl
@[simp] theorem State.setKey_sp (k : Fin 16) (d : Bool) : (s.setKey k d).sp = s.sp := rfl
@[simp] theorem State.setKey_mem (k : Fin 16) (d : Bool) : (s.setKey k d).mem = s.mem := rfl
@[simp] theorem State.setKey_font (k : Fin 16) (d : Bool) : (s.setKey k d).font = s.font := rfl
@[simp] theorem State.setKey_fb (k : Fin 16) (d : Bool) : (s.setKey k d).fb = s.fb := rfl
@[simp] theorem State.setKey_key (k : Fin 16) (d : Bool) : (s.setKey k d).key = s.key.set k.val d := rfl
@[simp] theorem State.setKey_latch (k : Fin 16) (d : Bool) : (s.setKey k d).latch = s.latch := rfl
@[simp] theorem State.setKey_dt (k : Fin 16) (d : Bool) : (s.setKey k d).dt = s.dt := rfl
@[simp] theorem State.setKey_st (k : Fin 16) (d : Bool) : (s.setKey k d).st = s.st := rfl
@[simp] theorem State.setKey_wait (k : Fin 16) (d : Bool) : (s.setKey k d).wait = s.wait := rfl
@[simp] theorem State.setKey_fault (k : Fin 16) (d : Bool) : (s.setKey k d).fault = s.fault := rfl
@[simp] theorem State.setKey_rnd (k : Fin 16) (d : Bool) : (s.setKey k d).rnd = s.rnd := rfl
@[simp] theorem State.setKey_draws (k : Fin 16) (d : Bool) : (s.setKey k d).draws = s.draws := rfl
@[simp] theorem State.setKey_hostOps (k : Fin 16) (d : Bool) : (s.setKey k d).hostOps = s.hostOps := rfl
@[simp] theorem State.setKey_phase (k : Fin 16) (d : Bool) : (s.setKey k d).phase = s.phase := rfl
@[simp] theorem State.setKey_byteAt (k : Fin 16) (d : Bool) (c : Nat) : (s.setKey k d).byteAt c = s.byteAt c := rfl
@[simp] theorem State.setKey_pixel (k : Fin 16) (d : Bool) (py px : Nat) : (s.setKey k d).pixel py px = s.pixel py px := rfl
@[simp] theorem State.setKey_pcn (k : Fin 16) (d : Bool) : (s.setKey k d).pcn = s.pcn := rfl
@[simp] theorem State.setKey_reg (k : Fin 16) (d : Bool) (q : Reg) : (s.setKey k d).reg q = s.reg q := rfl

/-! ### After `setDt` -/

@[simp] theorem State.setDt_v (b : Byte) : (s.setDt b).v = s.v := rfl
@[simp] theorem State.setDt_i (b : Byte) : (s.setDt b).i = s.i := rfl
@[simp] theorem State.setDt_pc (b : Byte) : (s.setDt b).pc = s.pc := rfl
@[simp] theorem State.setDt_stack (b : Byte) : (s.setDt b).stack = s.stack := rfl
@[simp] theorem State.setDt_sp (b : Byte) : (s.setDt b).sp = s.sp := rfl
@[simp] theorem State.setDt_mem (b : Byte) : (s.setDt b).mem = s.mem := rfl
@[simp] theorem State.setDt_font (b : Byte) : (s.setDt b).font = s.font := rfl
@[simp] theorem State.setDt_fb (b : Byte) : (s.setDt b).fb = s.fb := rfl
@[simp] theorem State.setDt_key (b : Byte) : (s.setDt b).key = s.key := rfl
@[simp] theorem State.setDt_latch (b : Byte) : (s.setDt b).latch = s.latch := rfl
@[simp] theorem State.setDt_dt (b : Byte) : (s.setDt b).dt = b := rfl
@[simp] theorem State.setDt_st (b : Byte) : (s.setDt b).st = s.st := rfl
@[simp] theorem State.setDt_wait (b : Byte) : (s.setDt b).wait = s.wait := rfl
@[simp] theorem State.setDt_fault (b : Byte) : (s.setDt b).fault = s.fault := rfl
@[simp] theorem State.setDt_rnd (b : Byte) : (s.setDt b).rnd = s.rnd := rfl
@[simp] theorem State.setDt_draws (b : Byte) : (s.setDt b).draws = s.draws := rfl
@[simp] theorem State.setDt_hostOps (b : Byte) : (s.setDt b).hostOps = s.hostOps := rfl
@[simp] theorem State.setDt_phase (b : Byte) : (s.setDt b).phase = s.phase := rfl
@[simp] theorem State.setDt_byteAt (b : Byte) (c : Nat) : (s.setDt b).byteAt c = s.byteAt c := rfl
@[simp] theorem State.setDt_pixel (b : Byte) (py px : Nat) : (s.setDt b).pixel py px = s.pixel py px := rfl
@[simp] theorem State.setDt_pcn (b : Byte) : (s.setDt b).pcn = s.pcn := rfl
@[simp] theorem State.setDt_reg (b : Byte) (q : Reg) : (s.setDt b).reg q = s.reg q := rfl

/-! ### After `setSt` -/

@[simp] theorem State.setSt_v (b : Byte) : (s.setSt b).v = s.v := rfl
@[simp] theorem State.setSt_i (b : Byte) : (s.setSt b).i = s.i := rfl
@[simp] theorem State.setSt_pc (b : Byte) : (s.setSt b).pc = s.pc := rfl
@[simp] theorem State.setSt_stack (b : Byte) : (s.setSt b).stack = s.stack := rfl
@[simp] theorem State.setSt_sp (b : Byte) : (s.setSt b).sp = s.sp := rfl
@[simp] theorem State.setSt_mem (b : Byte) : (s.setSt b).mem = s.mem := rfl
@[simp] theorem State.setSt_font (b : Byte) : (s.setSt b).font = s.font := rfl
@[simp] theorem State.setSt_fb (b : Byte) : (s.setSt b).fb = s.fb := rfl
@[simp] theorem State.setSt_key (b : Byte) : (s.setSt b).key = s.key := rfl
@[simp] theorem State.setSt_latch (b : Byte) : (s.setSt b).latch = s.latch := rfl
@[simp] theorem State.setSt_dt (b : Byte) : (s.setSt b).dt = s.dt := rfl
@[simp] theorem State.setSt_st (b : Byte) : (s.setSt b).st = b := rfl
@[simp] theorem State.setSt_wait (b : Byte) : (s.setSt b).wait = s.wait := rfl
@[simp] theorem State.setSt_fault (b : Byte) : (s.setSt b).fault = s.fault := rfl
@[simp] theorem State.setSt_rnd (b : Byte) : (s.setSt b).rnd = s.rnd := rfl
@[simp] theorem State.setSt_draws (b : Byte) : (s.setSt b).draws = s.draws := rfl
@[simp] theorem State.setSt_hostOps (b : Byte) : (s.setSt b).hostOps = s.hostOps := rfl
@[simp] theorem State.setSt_phase (b : Byte) : (s.setSt b).phase = s.phase := rfl
@[simp] theorem State.setSt_byteAt (b : Byte) (c : Nat) : (s.setSt b).byteAt c = s.byteAt c := rfl
@[simp] theorem State.setSt_pixel (b : Byte) (py px : Nat) : (s.setSt b).pixel py px = s.pixel py px := rfl
@[simp] theorem State.setSt_pcn (b : Byte) : (s.setSt b).pcn = s.pcn := rfl
@[simp] theorem State.setSt_reg (b : Byte) (q : Reg) : (s.setSt b).reg q = s.reg q := rfl

/-! ### After `setFault` -/

@[simp] theorem State.setFault_v (k : FaultKind) : (s.setFault k).v = s.v := rfl
@[simp] theorem State.setFault_i (k : FaultKind) : (s.setFault k).i = s.i := rfl
@[simp] theorem State.setFault_pc (k : FaultKind) : (s.setFault k).pc = s.pc := rfl
@[simp] theorem State.setFault_stack (k : FaultKind) : (s.setFault k).stack = s.stack := rfl
@[simp] theorem State.setFault_sp (k : FaultKind) : (s.setFault k).sp = s.sp := rfl
@[simp] theorem State.setFault_mem (k : FaultKind) : (s.setFault k).mem = s.mem := rfl
@[simp] theorem State.setFault_font (k : FaultKind) : (s.setFault k).font = s.font := rfl
@[simp] theorem State.setFault_fb (k : FaultKind) : (s.setFault k).fb = s.fb := rfl
@[simp] theorem State.setFault_key (k : FaultKind) : (s.setFault k).key = s.key := rfl
@[simp] theorem State.setFault_latch (k : FaultKind) : (s.setFault k).latch = s.latch := rfl
@[simp] theorem State.setFault_dt (k : FaultKind) : (s.setFault k).dt = s.dt := rfl
@[simp] theorem State.setFault_st (k : FaultKind) : (s.setFault k).st = s.st := rfl
@[simp] theorem State.setFault_wait (k : FaultKind) : (s.setFault k).wait = s.wait := rfl
@[simp] theorem State.setFault_fault (k : FaultKind) : (s.setFault k).fault = some k := rfl
@[simp] theorem State.setFault_rnd (k : FaultKind) : (s.setFault k).rnd = s.rnd := rfl
@[simp] theorem State.setFault_draws (k : FaultKind) : (s.setFault k).draws = s.draws := rfl
@[simp] theorem State.setFault_hostOps (k : FaultKind) : (s.setFault k).hostOps = s.hostOps := rfl
@[simp] theorem State.setFault_phase (k : FaultKind) : (s.setFault k).phase = s.phase := rfl
@[simp] theorem State.setFault_byteAt (k : FaultKind) (c : Nat) : (s.setFault k).byteAt c = s.byteAt c := rfl
@[simp] theorem State.setFault_pixel (k : FaultKind) (py px : Nat) : (s.setFault k).pixel py px = s.pixel py px := rfl
@[simp] theorem State.setFault_pcn (k : FaultKind) : (s.setFault k).pcn = s.pcn := rfl
@[simp] theorem State.setFault_reg (k : FaultKind) (q : Reg) : (s.setFault k).reg q = s.reg q := rfl

/-! ### After `setStack` -/

@[simp] theorem State.setStack_v (k : Vector Word 16) (n : Fin 17) : (s.setStack k n).v = s.v := rfl
@[simp] theorem State.setStack_i (k : Vector Word 16) (n : Fin 17) : (s.setStack k n).i = s.i := rfl
@[simp] theorem State.setStack_pc (k : Vector Word 16) (n : Fin 17) : (s.setStack k n).pc = s.pc := rfl
@[simp] theorem State.setStack_stack (k : Vector Word 16) (n : Fin 17) : (s.setStack k n).stack = k := rfl
@[simp] theorem State.setStack_sp (k : Vector Word 16) (n : Fin 17) : (s.setStack k n).sp = n := rfl
@[simp] theorem State.setStack_mem (k : Vector Word 16) (n : Fin 17) : (s.setStack k n).mem = s.mem := rfl
@[simp] theorem State.setStack_font (k : Vector Word 16) (n : Fin 17) : (s.setStack k n).font = s.font := rfl
@[simp] theorem State.setStack_fb (k : Vector Word 16) (n : Fin 17) : (s.setStack k n).fb = s.fb := rfl
@[simp] theorem State.setStack_key (k : Vector Word 16) (n : Fin 17) : (s.setStack k n).key = s.key := rfl
@[simp] theorem State.setStack_latch (k : Vector Word 16) (n : Fin 17) : (s.setStack k n).latch = s.latch := rfl
@[simp] theorem State.setStack_dt (k : Vector Word 16) (n : Fin 17) : (s.setStack k n).dt = s.dt := rfl
@[simp] theorem State.setStack_st (k : Vector Word 16) (n : Fin 17) : (s.setStack k n).st = s.st := rfl
@[simp] theorem State.setStack_wait (k : Vector Word 16) (n : Fin 17) : (s.setStack k n).wait = s.wait := rfl
@[simp] theorem State.setStack_fault (k : Vector Word 16) (n : Fin 17) : (s.setStack k n).fault = s.fault := rfl
@[simp] theorem State.setStack_rnd (k : Vector Word 16) (n : Fin 17) : (s.setStack k n).rnd = s.rnd := rfl
@[simp] theorem State.setStack_draws (k : Vector Word 16) (n : Fin 17) : (s.setStack k n).draws = s.draws := rfl
@[simp] theorem State.setStack_hostOps (k : Vector Word 16) (n : Fin 17) : (s.setStack k n).hostOps = s.hostOps := rfl
@[simp] theorem State.setStack_phase (k : Vector Word 16) (n : Fin 17) : (s.setStack k n).phase = s.phase := rfl
@[simp] theorem State.setStack_byteAt (k : Vector Word 16) (n : Fin 17) (c : Nat) : (s.setStack k n).byteAt c = s.byteAt c := rfl
@[simp] theorem State.setStack_pixel (k : Vector Word 16) (n : Fin 17) (py px : Nat) : (s.setStack k n).pixel py px = s.pixel py px := rfl
@[simp] theorem State.setStack_pcn (k : Vector Word 16) (n : Fin 17) : (s.setStack k n).pcn = s.pcn := rfl
@[simp] theorem State.setStack_reg (k : Vector Word 16) (n : Fin 17) (q : Reg) : (s.setStack k n).reg q = s.reg q := rfl

/-! ### After `setDraws` -/

@[simp] theorem State.setDraws_v (n : Nat) : (s.setDraws n).v = s.v := rfl
@[simp] theorem State.setDraws_i (n : Nat) : (s.setDraws n).i = s.i := rfl
@[simp] theorem State.setDraws_pc (n : Nat) : (s.setDraws n).pc = s.pc := rfl
@[simp] theorem State.setDraws_stack (n : Nat) : (s.setDraws n).stack = s.stack := rfl
@[simp] theorem State.setDraws_sp (n : Nat) : (s.setDraws n).sp = s.sp := rfl
@[simp] theorem State.setDraws_mem (n : Nat) : (s.setDraws n).mem = s.mem := rfl
@[simp] theorem State.setDraws_font (n : Nat) : (s.setDraws n).font = s.font := rfl
@[simp] theorem State.setDraws_fb (n : Nat) : (s.setDraws n).fb = s.fb := rfl
@[simp] theorem State.setDraws_key (n : Nat) : (s.setDraws n).key = s.key := rfl
@[simp] theorem State.setDraws_latch (n : Nat) : (s.setDraws n).latch = s.latch := rfl
@[simp] theorem State.setDraws_dt (n : Nat) : (s.setDraws n).dt = s.dt := rfl
@[simp] theorem State.setDraws_st (n : Nat) : (s.setDraws n).st = s.st := rfl
@[simp] theorem State.setDraws_wait (n : Nat) : (s.setDraws n).wait = s.wait := rfl
@[simp] theorem State.setDraws_fault (n : Nat) : (s.setDraws n).fault = s.fault := rfl
@[simp] theorem State.setDraws_rnd (n : Nat) : (s.setDraws n).rnd = s.rnd := rfl
@[simp] theorem State.setDraws_draws (n : Nat) : (s.setDraws n).draws = n := rfl
@[simp] theorem State.setDraws_hostOps (n : Nat) : (s.setDraws n).hostOps = s.hostOps := rfl
@[simp] theorem State.setDraws_phase (n : Nat) : (s.setDraws n).phase = s.phase := rfl
@[simp] theorem State.setDraws_byteAt (n : Nat) (c : Nat) : (s.setDraws n).byteAt c = s.byteAt c := rfl
@[simp] theorem State.setDraws_pixel (n : Nat) (py px : Nat) : (s.setDraws n).pixel py px = s.pixel py px := rfl
@[simp] theorem State.setDraws_pcn (n : Nat) : (s.setDraws n).pcn = s.pcn := rfl
@[simp] theorem State.setDraws_reg (n : Nat) (q : Reg) : (s.setDraws n).reg q = s.reg q := rfl

/-! ### After `setRnd` -/

@[simp] theorem State.setRnd_v (r : Option Byte) : (s.setRnd r).v = s.v := rfl
@[simp] theorem State.setRnd_i (r : Option Byte) : (s.setRnd r).i = s.i := rfl
@[simp] theorem State.setRnd_pc (r : Option Byte) : (s.setRnd r).pc = s.pc := rfl
@[simp] theorem State.setRnd_stack (r : Option Byte) : (s.setRnd r).stack = s.stack := rfl
@[simp] theorem State.setRnd_sp (r : Option Byte) : (s.setRnd r).sp = s.sp := rfl
@[simp] theorem State.setRnd_mem (r : Option Byte) : (s.setRnd r).mem = s.mem := rfl
@[simp] theorem State.setRnd_font (r : Option Byte) : (s.setRnd r).font = s.font := rfl
@[simp] theorem State.setRnd_fb (r : Option Byte) : (s.setRnd r).fb = s.fb := rfl
@[simp] theorem State.setRnd_key (r : Option Byte) : (s.setRnd r).key = s.key := rfl
@[simp] theorem State.setRnd_latch (r : Option Byte) : (s.setRnd r).latch = s.latch := rfl
@[simp] theorem State.setRnd_dt (r : Option Byte) : (s.setRnd r).dt = s.dt := rfl
@[simp] theorem State.setRnd_st (r : Option Byte) : (s.setRnd r).st = s.st := rfl
@[simp] theorem State.setRnd_wait (r : Option Byte) : (s.setRnd r).wait = s.wait := rfl
@[simp] theorem State.setRnd_fault (r : Option Byte) : (s.setRnd r).fault = s.fault := rfl
@[simp] theorem State.setRnd_rnd (r : Option Byte) : (s.setRnd r).rnd = r := rfl
@[simp] theorem State.setRnd_draws (r : Option Byte) : (s.setRnd r).draws = s.draws := rfl
@[simp] theorem State.setRnd_hostOps (r : Option Byte) : (s.setRnd r).hostOps = s.hostOps := rfl
@[simp] theorem State.setRnd_phase (r : Option Byte) : (s.setRnd r).phase = s.phase := rfl
@[simp] theorem State.setRnd_byteAt (r : Option Byte) (c : Nat) : (s.setRnd r).byteAt c = s.byteAt c := rfl
@[simp] theorem State.setRnd_pixel (r : Option Byte) (py px : Nat) : (s.setRnd r).pixel py px = s.pixel py px := rfl
@[simp] theorem State.setRnd_pcn (r : Option Byte) : (s.setRnd r).pcn = s.pcn := rfl
@[simp] theorem State.setRnd_reg (r : Option Byte) (q : Reg) : (s.setRnd r).reg q = s.reg q := rfl

/-! ### After `setHostOps` -/

@[simp] theorem State.setHostOps_v (ops : List HostOp) : (s.setHostOps ops).v = s.v := rfl
@[simp] theorem State.setHostOps_i (ops : List HostOp) : (s.setHostOps ops).i = s.i := rfl
@[simp] theorem State.setHostOps_pc (ops : List HostOp) : (s.setHostOps ops).pc = s.pc := rfl
@[simp] theorem State.setHostOps_stack (ops : List HostOp) : (s.setHostOps ops).stack = s.stack := rfl
@[simp] theorem State.setHostOps_sp (ops : List HostOp) : (s.setHostOps ops).sp = s.sp := rfl
@[simp] theorem State.setHostOps_mem (ops : List HostOp) : (s.setHostOps ops).mem = s.mem := rfl
@[simp] theorem State.setHostOps_font (ops : List HostOp) : (s.setHostOps ops).font = s.font := rfl
@[simp] theorem State.setHostOps_fb (ops : List HostOp) : (s.setHostOps ops).fb = s.fb := rfl
@[simp] theorem State.setHostOps_key (ops : List HostOp) : (s.setHostOps ops).key = s.key := rfl
@[simp] theorem State.setHostOps_latch (ops : List HostOp) : (s.setHostOps ops).latch = s.latch := rfl
@[simp] theorem State.setHostOps_dt (ops : List HostOp) : (s.setHostOps ops).dt = s.dt := rfl
@[simp] theorem State.setHostOps_st (ops : List HostOp) : (s.setHostOps ops).st = s.st := rfl
@[simp] theorem State.setHostOps_wait (ops : List HostOp) : (s.setHostOps ops).wait = s.wait := rfl
@[simp] theorem State.setHostOps_fault (ops : List HostOp) : (s.setHostOps ops).fault = s.fault := rfl
@[simp] theorem State.setHostOps_rnd (ops : List HostOp) : (s.setHostOps ops).rnd = s.rnd := rfl
@[simp] theorem State.setHostOps_draws (ops : List HostOp) : (s.setHostOps ops).draws = s.draws := rfl
@[simp] theorem State.setHostOps_hostOps (ops : List HostOp) : (s.setHostOps ops).hostOps = ops := rfl
@[simp] theorem State.setHostOps_phase (ops : List HostOp) : (s.setHostOps ops).phase = s.phase := rfl
@[simp] theorem State.setHostOps_byteAt (ops : List HostOp) (c : Nat) : (s.setHostOps ops).byteAt c = s.byteAt c := rfl
@[simp] theorem State.setHostOps_pixel (ops : List HostOp) (py px : Nat) : (s.setHostOps ops).pixel py px = s.pixel py px := rfl
@[simp] theorem State.setHostOps_pcn (ops : List HostOp) : (s.setHostOps ops).pcn = s.pcn := rfl
@[simp] theorem State.setHostOps_reg (ops : List HostOp) (q : Reg) : (s.setHostOps ops).reg q = s.reg q := rfl

/-! ### After `setPhase` -/

@[simp] theorem State.setPhase_v (p : HostPhase) : (s.setPhase p).v = s.v := rfl
@[simp] theorem State.setPhase_i (p : HostPhase) : (s.setPhase p).i = s.i := rfl
@[simp] theorem State.setPhase_pc (p : HostPhase) : (s.setPhase p).pc = s.pc := rfl
@[simp] theorem State.setPhase_stack (p : HostPhase) : (s.setPhase p).stack = s.stack := rfl
@[simp] theorem State.setPhase_sp (p : HostPhase) : (s.setPhase p).sp = s.sp := rfl
@[simp] theorem State.setPhase_mem (p : HostPhase) : (s.setPhase p).mem = s.mem := rfl
@[simp] theorem State.setPhase_font (p : HostPhase) : (s.setPhase p).font = s.font := rfl
@[simp] theorem State.setPhase_fb (p : HostPhase) : (s.setPhase p).fb = s.fb := rfl
@[simp] theorem State.setPhase_key (p : HostPhase) : (s.setPhase p).key = s.key := rfl
@[simp] theorem State.setPhase_latch (p : HostPhase) : (s.setPhase p).latch = s.latch := rfl
@[simp] theorem State.setPhase_dt (p : HostPhase) : (s.setPhase p).dt = s.dt := rfl
@[simp] theorem State.setPhase_st (p : HostPhase) : (s.setPhase p).st = s.st := rfl
@[simp] theorem State.setPhase_wait (p : HostPhase) : (s.setPhase p).wait = s.wait := rfl
@[simp] theorem State.setPhase_fault (p : HostPhase) : (s.setPhase p).fault = s.fault := rfl
@[simp] theorem State.setPhase_rnd (p : HostPhase) : (s.setPhase p).rnd = s.rnd := rfl
@[simp] theorem State.setPhase_draws (p : HostPhase) : (s.setPhase p).draws = s.draws := rfl
@[simp] theorem State.setPhase_hostOps (p : HostPhase) : (s.setPhase p).hostOps = s.hostOps := rfl
@[simp] theorem State.setPhase_phase (p : HostPhase) : (s.setPhase p).phase = p := rfl
@[simp] theorem State.setPhase_byteAt (p : HostPhase) (c : Nat) : (s.setPhase p).byteAt c = s.byteAt c := rfl
@[simp] theorem State.setPhase_pixel (p : HostPhase) (py px : Nat) : (s.setPhase p).pixel py px = s.pixel py px := rfl
@[simp] theorem State.setPhase_pcn (p : HostPhase) : (s.setPhase p).pcn = s.pcn := rfl
@[simp] theorem State.setPhase_reg (p : HostPhase) (q : Reg) : (s.setPhase p).reg q = s.reg q := rfl

/-! ### Registers after a write -/

theorem State.setReg_reg (r q : Reg) (b : Byte) : (s.setReg r b).reg q = if q = r then b else s.reg q := by
  simp only [State.reg, State.setReg_v, Vector.getElem_set, Fin.val_eq_val, eq_comm]

@[simp] theorem State.setReg_reg_same (r : Reg) (b : Byte) : (s.setReg r b).reg r = b := by
  simp [State.setReg_reg]

theorem State.setReg_reg_ne {r q : Reg} (h : q ≠ r) (b : Byte) : (s.setReg r b).reg q = s.reg q := by
  simp [State.setReg_reg, h]

theorem State.setKey_get (k j : Fin 16) (d : Bool) : (s.setKey k d).key[j.val] = if j = k then d else s.key[j.val] := by
  simp only [State.setKey_key, Vector.getElem_set, Fin.val_eq_val, eq_comm]

theorem State.setFb_pixel (fb : Vector PixelRow 32) (py px : Nat) : (s.setFb fb).pixel py px = pixelOf fb py px := rfl

theorem State.setMem_byteAt (m : List Host.Cell) (a : Nat) : (s.setMem m).byteAt a = Memory.read s.font m a := rfl

@[simp] theorem State.setPc_pcn (w : Word) : (s.setPc w).pcn = w + 2 := rfl

/-! ### The composite updates in terms of the named ones -/

@[simp] theorem State.advance_eq : s.advance = s.setPc s.pcn := rfl

@[simp] theorem State.skipIf_eq (c : Bool) : s.skipIf c = s.setPc (if c then s.pcn + 2 else s.pcn) := rfl

@[simp] theorem State.storeBytes_eq (a : Nat) (bs : List Byte) :
    s.storeBytes a bs = s.setMem (Memory.writeBytes s.font s.mem a bs) := rfl

@[simp] theorem State.writeFlagThenReg_eq (f : Byte) (x : Reg) (b : Byte) :
    s.writeFlagThenReg f x b = (s.setReg Reg.VF f).setReg x b := rfl

@[simp] theorem State.loadRegs_eq (x : Reg) (a : Nat) :
    s.loadRegs x a = s.setRegs (Vector.ofFn fun k : Fin 16 => if k ≤ x then s.byteAt (a + k.val) else s.reg k) := rfl

/-- The registers after a block load (R200). -/
theorem State.setRegs_ofFn_reg (f : Fin 16 → Byte) (q : Reg) : (s.setRegs (Vector.ofFn f)).reg q = f q := by
  simp [State.reg]

@[simp] theorem State.effAddr_eq (k : Nat) : s.effAddr k = s.i.toNat + k := rfl

end Sys2Proof.Machine
end

