-- ==== Sys2Proof/Laws/Framebuffer.lean ====
section
/-! SUPPORT. The framebuffer: what Clear and DrawSprite leave in every pixel, and when a draw collides. -/

namespace Sys2Proof.Machine

theorem pixelOf_cleared (py px : Nat) : pixelOf clearedFb py px = false := by
  unfold pixelOf clearedFb
  by_cases h : py < 32
  · simp [h]
  · simp [h]

/-- Outside the grid a pixel reads as off. -/
theorem pixelOf_outside (fb : Vector PixelRow 32) {py px : Nat} (h : ¬ (px < 64 ∧ py < 32)) : pixelOf fb py px = false := by
  unfold pixelOf
  by_cases hy : py < 32
  · exact BitVec.getLsbD_of_ge _ _ (by omega)
  · simp [hy]

/-- A flip toggles its own pixel and leaves every other. -/
theorem pixelOf_flipPixel (fb : Vector PixelRow 32) {y x : Nat} (hx : x < 64) (hy : y < 32) (py px : Nat) :
    pixelOf (flipPixel fb y x) py px = (pixelOf fb py px ^^ decide (py = y ∧ px = x)) := by
  unfold pixelOf flipPixel
  by_cases hpy : py = y
  · subst hpy
    have hb : ((fb[py]?.getD 0 ^^^ 1#64 <<< x).getLsbD px) = ((fb[py]?.getD 0).getLsbD px ^^ decide (px = x)) := by
      rw [BitVec.getLsbD_xor, BitVec.getLsbD_shiftLeft]
      congr 1
      by_cases hpx : px = x
      · subst hpx; simp [hx]
      · rcases Nat.lt_or_ge px x with h | h
        · simp [h, hpx]
        · have : px - x ≠ 0 := by omega
          simp [hpx, this]
    rw [Vector.getElem?_setIfInBounds_self_of_lt hy]
    simpa using hb
  · rw [Vector.getElem?_setIfInBounds_ne (Ne.symm hpy)]
    simp [hpy]

/-- The columns of a sprite row whose bit is set and lands inside the grid. -/
def Lands (x0 y : Nat) (b : Byte) (j : Nat) : Prop := b.getLsbD (7 - j) = true ∧ x0 + j < 64 ∧ y < 32

theorem drawBit_of_lands {x0 y0 i : Nat} {b : Byte} {d : Vector PixelRow 32 × Bool} {j : Nat}
    (h : Lands x0 (y0 + i) b j) :
    drawBit x0 y0 i b d j = (flipPixel d.1 (y0 + i) (x0 + j), d.2 || pixelOf d.1 (y0 + i) (x0 + j)) :=
  if_pos h

theorem drawBit_of_not_lands {x0 y0 i : Nat} {b : Byte} {d : Vector PixelRow 32 × Bool} {j : Nat}
    (h : ¬ Lands x0 (y0 + i) b j) : drawBit x0 y0 i b d j = d :=
  if_neg h

/-- Drawing some columns of one row, each once: which pixels toggle, and whether one of them was on. -/
theorem foldl_drawBit {x0 y0 i : Nat} {b : Byte} (js : List Nat) (hjs : js.Nodup) (d : Vector PixelRow 32 × Bool) :
    (∀ py px, (pixelOf (js.foldl (drawBit x0 y0 i b) d).1 py px ≠ pixelOf d.1 py px) ↔
      (py = y0 + i ∧ ∃ j ∈ js, px = x0 + j ∧ Lands x0 (y0 + i) b j)) ∧
    ((js.foldl (drawBit x0 y0 i b) d).2 = true ↔
      d.2 = true ∨ ∃ j ∈ js, Lands x0 (y0 + i) b j ∧ pixelOf d.1 (y0 + i) (x0 + j) = true) := by
  induction js generalizing d with
  | nil => simp
  | cons j js ih =>
    obtain ⟨hj, hjs⟩ := List.nodup_cons.mp hjs
    obtain ⟨ih1, ih2⟩ := ih hjs (drawBit x0 y0 i b d j)
    simp only [List.foldl_cons]
    by_cases hl : Lands x0 (y0 + i) b j
    · rw [drawBit_of_lands hl] at ih1 ih2 ⊢
      have hflip := pixelOf_flipPixel d.1 hl.2.1 hl.2.2
      constructor
      · intro py px
        have ih1 := ih1 py px
        rw [hflip] at ih1
        by_cases hp : py = y0 + i ∧ px = x0 + j
        · obtain ⟨rfl, rfl⟩ := hp
          have hno : ¬ ∃ j' ∈ js, x0 + j = x0 + j' ∧ Lands x0 (y0 + i) b j' := by
            rintro ⟨j', hj', he, -⟩
            exact hj (by rwa [show j = j' by omega])
          have hin : ∃ j' ∈ j :: js, x0 + j = x0 + j' ∧ Lands x0 (y0 + i) b j' := ⟨j, by simp, rfl, hl⟩
          simp only [true_and, hno, iff_false, ne_eq, not_not, and_self, decide_true, Bool.xor_true] at ih1
          exact iff_of_true (by simp [ih1]) ⟨rfl, hin⟩
        · simp only [hp, decide_false, Bool.xor_false] at ih1
          rw [ih1]
          constructor
          · rintro ⟨h1, j', hj', h2⟩; exact ⟨h1, j', by simp [hj'], h2⟩
          · rintro ⟨h1, j', hj', h2⟩
            rcases List.mem_cons.mp hj' with rfl | hj'
            · exact absurd ⟨h1, h2.1⟩ hp
            · exact ⟨h1, j', hj', h2⟩
      · rw [ih2]
        simp only [Bool.or_eq_true, List.mem_cons, exists_eq_or_imp, hl, true_and, or_assoc]
        refine or_congr Iff.rfl (or_congr Iff.rfl ⟨?_, ?_⟩)
        all_goals
          rintro ⟨j', hj', h1, h2⟩
          refine ⟨j', hj', h1, ?_⟩
          have hne : j' ≠ j := fun he => hj (he ▸ hj')
          simpa [hflip, hne] using h2
    · rw [drawBit_of_not_lands hl] at ih1 ih2 ⊢
      constructor
      · intro py px
        rw [ih1]
        simp [hl]
      · rw [ih2]; simp [hl]

theorem mem_columns {j : Nat} : j ∈ [0, 1, 2, 3, 4, 5, 6, 7] ↔ j ≤ 7 := by
  simp only [List.mem_cons, List.not_mem_nil, or_false]; omega

/-- One sprite row (R213). -/
theorem drawRow_spec (x0 y0 i : Nat) (b : Byte) (d : Vector PixelRow 32 × Bool) :
    (∀ py px, (pixelOf (drawRow x0 y0 i b d).1 py px ≠ pixelOf d.1 py px) ↔
      (py = y0 + i ∧ ∃ j ≤ 7, px = x0 + j ∧ Lands x0 (y0 + i) b j)) ∧
    ((drawRow x0 y0 i b d).2 = true ↔
      d.2 = true ∨ ∃ j ≤ 7, Lands x0 (y0 + i) b j ∧ pixelOf d.1 (y0 + i) (x0 + j) = true) := by
  simpa only [mem_columns, drawRow] using foldl_drawBit (x0 := x0) (y0 := y0) (i := i) (b := b) [0, 1, 2, 3, 4, 5, 6, 7] (by decide) d

/-- The sprite rows from `i` on (R213). -/
theorem drawRows_spec (x0 y0 : Nat) (bs : List Byte) (i : Nat) (d : Vector PixelRow 32 × Bool) :
    (∀ py px, (pixelOf (drawRows x0 y0 i bs d).1 py px ≠ pixelOf d.1 py px) ↔
      ∃ k j : Nat, ∃ b : Byte, bs[k]? = some b ∧ j ≤ 7 ∧ py = y0 + (i + k) ∧ px = x0 + j ∧ Lands x0 (y0 + (i + k)) b j) ∧
    ((drawRows x0 y0 i bs d).2 = true ↔
      d.2 = true ∨ ∃ k j : Nat, ∃ b : Byte, bs[k]? = some b ∧ j ≤ 7 ∧ Lands x0 (y0 + (i + k)) b j ∧
        pixelOf d.1 (y0 + (i + k)) (x0 + j) = true) := by
  induction bs generalizing i d with
  | nil => simp [drawRows]
  | cons b bs ih =>
    obtain ⟨ih1, ih2⟩ := ih (i + 1) (drawRow x0 y0 i b d)
    obtain ⟨r1, r2⟩ := drawRow_spec x0 y0 i b d
    rw [drawRows]
    have other : ∀ k x, pixelOf (drawRow x0 y0 i b d).1 (y0 + (i + 1 + k)) x = pixelOf d.1 (y0 + (i + 1 + k)) x := by
      intro k x
      by_contra hne
      have := ((r1 _ _).mp hne).1
      omega
    constructor
    · intro py px
      by_cases hpy : py = y0 + i
      · have hsame : pixelOf (drawRows x0 y0 (i + 1) bs (drawRow x0 y0 i b d)).1 py px =
            pixelOf (drawRow x0 y0 i b d).1 py px := by
          by_contra hne
          obtain ⟨k, j, c, -, -, h, -⟩ := (ih1 _ _).mp hne
          omega
        rw [hsame, r1]
        constructor
        · rintro ⟨h, j, hj, hx, hl⟩
          exact ⟨0, j, b, by simp, hj, h, hx, hl⟩
        · rintro ⟨k, j, c, hk, hj, h, hx, hl⟩
          obtain rfl : k = 0 := by omega
          obtain rfl : b = c := by simpa using hk
          exact ⟨hpy, j, hj, hx, hl⟩
      · have hrow : pixelOf (drawRow x0 y0 i b d).1 py px = pixelOf d.1 py px := by
          by_contra hne
          exact hpy ((r1 _ _).mp hne).1
        rw [← hrow, ih1]
        constructor
        · rintro ⟨k, j, c, hk, hj, h, hx, hl⟩
          refine ⟨k + 1, j, c, by simpa using hk, hj, by omega, hx, ?_⟩
          rwa [show i + (k + 1) = i + 1 + k by omega]
        · rintro ⟨k, j, c, hk, hj, h, hx, hl⟩
          obtain ⟨k, rfl⟩ : ∃ k', k = k' + 1 := ⟨k - 1, by omega⟩
          refine ⟨k, j, c, by simpa using hk, hj, by omega, hx, ?_⟩
          rwa [show i + 1 + k = i + (k + 1) by omega]
    · rw [ih2, r2, or_assoc]
      refine or_congr Iff.rfl ⟨?_, ?_⟩
      · rintro (⟨j, hj, hl, hp⟩ | ⟨k, j, c, hk, hj, hl, hp⟩)
        · exact ⟨0, j, b, by simp, hj, hl, hp⟩
        · rw [other] at hp
          refine ⟨k + 1, j, c, by simpa using hk, hj, ?_, ?_⟩
          · rwa [show i + (k + 1) = i + 1 + k by omega]
          · rwa [show i + (k + 1) = i + 1 + k by omega]
      · rintro ⟨k, j, c, hk, hj, hl, hp⟩
        cases k with
        | zero =>
          obtain rfl : b = c := by simpa using hk
          exact Or.inl ⟨j, hj, hl, hp⟩
        | succ k =>
          rw [show i + (k + 1) = i + 1 + k by omega] at hl hp
          exact Or.inr ⟨k, j, c, by simpa using hk, hj, hl, by rwa [other]⟩

/-- DrawSprite toggles exactly the covered pixels of the grid (R213). -/
theorem pixelOf_drawSprite (fb : Vector PixelRow 32) (vx vy : Byte) (bs : List Byte) (py px : Nat) (hy : py < 32)
    (hx : px < 64) :
    (pixelOf (drawSprite fb vx vy bs).1 py px ≠ pixelOf fb py px) ↔ SpriteCovers bs (vx.toNat % 64) (vy.toNat % 32) py px := by
  rw [drawSprite, (drawRows_spec _ _ bs 0 (fb, false)).1]
  simp only [Nat.zero_add, SpriteCovers, Config.gridW, Config.gridH]
  constructor
  · rintro ⟨k, j, b, hk, hj, h1, h2, hl⟩; exact ⟨k, j, b, hk, hj, hl.1, h1, h2⟩
  · rintro ⟨k, j, b, hk, hj, hb, h1, h2⟩; exact ⟨k, j, b, hk, hj, h1, h2, hb, by omega, by omega⟩

/-- DrawSprite reports a collision exactly when a covered pixel of the grid was on (R213). -/
theorem drawSprite_collides (fb : Vector PixelRow 32) (vx vy : Byte) (bs : List Byte) :
    (drawSprite fb vx vy bs).2 = true ↔
      ∃ py px, py < 32 ∧ px < 64 ∧ SpriteCovers bs (vx.toNat % 64) (vy.toNat % 32) py px ∧ pixelOf fb py px = true := by
  rw [drawSprite, (drawRows_spec _ _ bs 0 (fb, false)).2]
  simp only [Nat.zero_add, SpriteCovers, Config.gridW, Config.gridH, Bool.false_eq_true, false_or]
  constructor
  · rintro ⟨k, j, b, hk, hj, hl, hp⟩
    exact ⟨_, _, hl.2.2, hl.2.1, ⟨k, j, b, hk, hj, hl.1, rfl, rfl⟩, hp⟩
  · rintro ⟨py, px, hy, hx, ⟨k, j, b, hk, hj, hb, rfl, rfl⟩, hp⟩
    exact ⟨k, j, b, hk, hj, ⟨hb, hx, hy⟩, hp⟩

/-- Two framebuffers with the same pixels are the same data. -/
theorem fb_ext {a b : Vector PixelRow 32} (h : ∀ py px, py < 32 → px < 64 → pixelOf a py px = pixelOf b py px) : a = b := by
  apply Vector.ext
  intro py hy
  apply BitVec.eq_of_getLsbD_eq
  intro px hx
  have := h py px hy hx
  simpa [pixelOf, hy] using this

end Sys2Proof.Machine
end

