-- ==== Sys2Proof/Laws/Memory.lean ====
section
/-! SUPPORT. Memory: reading after writing, and the canonical form, which every memory operation keeps. -/

namespace Sys2Proof.Machine

variable {font : Font}

theorem Memory.read_erase (m : List Host.Cell) (a c : Nat) :
    Memory.read font (Memory.erase m a) c = if c = a then Memory.initial font c else Memory.read font m c := by
  induction m with
  | nil => simp [Memory.erase, Memory.read]
  | cons e m ih =>
    obtain ⟨k, d⟩ := e
    simp only [Memory.erase] at ih
    by_cases hk : k = a
    · subst hk
      by_cases hc : c = k
      · subst hc; simpa [Memory.erase] using ih
      · simp [Memory.erase, ih, hc, Memory.read, Ne.symm hc]
    · simp only [Memory.erase, List.filter_cons, bne_iff_ne, ne_eq, hk, not_false_eq_true, if_true, Memory.read, ih]
      by_cases hc : k = c
      · subst hc; simp [hk]
      · simp [hc]

theorem Memory.read_insert (a : Nat) (b : Byte) (m : List Host.Cell) (h : ∀ e ∈ m, e.1 ≠ a) (c : Nat) :
    Memory.read font (Memory.insert a b m) c = if c = a then b else Memory.read font m c := by
  induction m with
  | nil =>
    by_cases hc : c = a
    · simp [Memory.insert, Memory.read, hc]
    · simp [Memory.insert, Memory.read, hc, Ne.symm hc]
  | cons e m ih =>
    obtain ⟨k, d⟩ := e
    have hk : k ≠ a := h (k, d) (by simp)
    have ih := ih fun e he => h e (by simp [he])
    by_cases hlt : a < k
    · by_cases hc : c = a
      · simp [Memory.insert, hlt, Memory.read, hc]
      · simp [Memory.insert, hlt, Memory.read, hc, Ne.symm hc]
    · by_cases hc : c = a
      · subst hc; simp [Memory.insert, hlt, Memory.read, ih, hk]
      · simp [Memory.insert, hlt, Memory.read, ih, hc]

theorem Memory.erase_ne (m : List Host.Cell) (a : Nat) : ∀ e ∈ Memory.erase m a, e.1 ≠ a := by
  intro e he; simpa using (List.mem_filter.mp he).2

/-- A read after a write: the byte written at its own address, every other address as before. -/
theorem Memory.read_write (m : List Host.Cell) (a : Nat) (b : Byte) (c : Nat) :
    Memory.read font (Memory.write font m a b) c = if c = a then b else Memory.read font m c := by
  by_cases hb : b = Memory.initial font a
  · by_cases hc : c = a <;> simp [Memory.write, hb, Memory.read_erase, hc]
  · by_cases hc : c = a <;>
      simp [Memory.write, hb, Memory.read_insert _ _ _ (Memory.erase_ne m a), Memory.read_erase, hc]

/-- A read after a block write. -/
theorem Memory.read_writeBytes (bs : List Byte) (m : List Host.Cell) (a c : Nat) :
    Memory.read font (Memory.writeBytes font m a bs) c =
      if a ≤ c ∧ c < a + bs.length then bs.getD (c - a) 0 else Memory.read font m c := by
  induction bs generalizing m a with
  | nil => simp only [Memory.writeBytes, List.length_nil]; split <;> [omega; rfl]
  | cons b bs ih =>
    rw [Memory.writeBytes, ih, Memory.read_write]
    simp only [List.length_cons]
    by_cases h1 : c = a
    · subst h1; simp
    · by_cases h2 : a + 1 ≤ c ∧ c < a + 1 + bs.length
      · obtain ⟨k, rfl⟩ : ∃ k, c = a + 1 + k := ⟨c - (a + 1), by omega⟩
        have e : a + 1 + k - a = k + 1 := by omega
        rw [if_pos h2, if_pos (by omega), e]; simp
      · rw [if_neg h2, if_neg h1, if_neg (by omega)]

theorem Memory.read_writeBytes_outside {bs : List Byte} {m : List Host.Cell} {a c : Nat}
    (h : ¬ (a ≤ c ∧ c < a + bs.length)) : Memory.read font (Memory.writeBytes font m a bs) c = Memory.read font m c := by
  rw [Memory.read_writeBytes, if_neg h]

/-! ### The canonical form -/

theorem Memory.wfFrom_mono {lo lo' : Nat} {m : List Host.Cell} (h : lo' ≤ lo) (hm : Memory.wfFrom font lo m = true) :
    Memory.wfFrom font lo' m = true := by
  cases m with
  | nil => rfl
  | cons e m =>
    simp only [Memory.wfFrom, Bool.and_eq_true, decide_eq_true_eq] at hm ⊢
    exact ⟨⟨⟨by omega, hm.1.1.2⟩, hm.1.2⟩, hm.2⟩

theorem Memory.wfFrom_erase {lo : Nat} {m : List Host.Cell} (a : Nat) (hm : Memory.wfFrom font lo m = true) :
    Memory.wfFrom font lo (Memory.erase m a) = true := by
  induction m generalizing lo with
  | nil => rfl
  | cons e m ih =>
    obtain ⟨k, d⟩ := e
    simp only [Memory.wfFrom, Bool.and_eq_true, decide_eq_true_eq] at hm
    have ih := ih hm.2
    by_cases hk : k = a
    · simp only [Memory.erase, List.filter_cons, bne_iff_ne, ne_eq, hk, not_true_eq_false, if_false]
      exact Memory.wfFrom_mono (by omega) ih
    · simp only [Memory.erase, List.filter_cons, bne_iff_ne, ne_eq, hk, not_false_eq_true, if_true, Memory.wfFrom,
        Bool.and_eq_true, decide_eq_true_eq]
      exact ⟨hm.1, ih⟩

theorem Memory.wfFrom_insert {lo a : Nat} {b : Byte} {m : List Host.Cell} (hlo : lo ≤ a) (ha : a < Config.memSize)
    (hb : b ≠ Memory.initial font a) (hne : ∀ e ∈ m, e.1 ≠ a) (hm : Memory.wfFrom font lo m = true) :
    Memory.wfFrom font lo (Memory.insert a b m) = true := by
  induction m generalizing lo with
  | nil => simp [Memory.insert, Memory.wfFrom, hlo, ha, hb]
  | cons e m ih =>
    obtain ⟨k, d⟩ := e
    have hk : k ≠ a := hne (k, d) (by simp)
    simp only [Memory.wfFrom, Bool.and_eq_true, decide_eq_true_eq] at hm
    by_cases hlt : a < k
    · simp only [Memory.insert, hlt, if_true, Memory.wfFrom, Bool.and_eq_true, decide_eq_true_eq]
      exact ⟨⟨⟨hlo, ha⟩, hb⟩, ⟨⟨by omega, hm.1.1.2⟩, hm.1.2⟩, hm.2⟩
    · simp only [Memory.insert, hlt, if_false, Memory.wfFrom, Bool.and_eq_true, decide_eq_true_eq]
      exact ⟨hm.1, ih (by omega) (fun e he => hne e (by simp [he])) hm.2⟩

/-- A write inside the memory keeps the canonical form. -/
theorem Memory.wf_write {m : List Host.Cell} {a : Nat} (b : Byte) (ha : a < Config.memSize) (hm : Memory.wf font m = true) :
    Memory.wf font (Memory.write font m a b) = true := by
  have he := Memory.wfFrom_erase a hm
  by_cases hb : b = Memory.initial font a
  · simpa [Memory.write, hb, Memory.wf] using he
  · simpa [Memory.write, hb, Memory.wf] using Memory.wfFrom_insert (Nat.zero_le a) ha hb (Memory.erase_ne m a) he

/-- A block write inside the memory keeps the canonical form. -/
theorem Memory.wf_writeBytes (bs : List Byte) {m : List Host.Cell} {a : Nat} (ha : a + bs.length ≤ Config.memSize)
    (hm : Memory.wf font m = true) : Memory.wf font (Memory.writeBytes font m a bs) = true := by
  induction bs generalizing m a with
  | nil => exact hm
  | cons b bs ih =>
    simp only [List.length_cons] at ha
    exact ih (by omega) (Memory.wf_write b (by omega) hm)

/-- Memory after RESET is canonical: it lists nothing. -/
theorem Memory.wf_reset : Memory.wf font (State.resetWith font).mem = true := rfl

/-- Equal canonical memories are equal data: two canonical lists that read the same at every address are the same list. -/
theorem Memory.wfFrom_ext {lo : Nat} {m m' : List Host.Cell} (hm : Memory.wfFrom font lo m = true)
    (hm' : Memory.wfFrom font lo m' = true) (h : ∀ a, Memory.read font m a = Memory.read font m' a) : m = m' := by
  have low : ∀ {lo : Nat} {m : List Host.Cell} {a : Nat}, Memory.wfFrom font lo m = true → a < lo →
      Memory.read font m a = Memory.initial font a := by
    intro lo m a hm ha
    induction m generalizing lo with
    | nil => rfl
    | cons e m ih =>
      simp only [Memory.wfFrom, Bool.and_eq_true, decide_eq_true_eq] at hm
      rw [Memory.read, if_neg (by omega)]
      exact ih hm.2 (by omega)
  induction m generalizing lo m' with
  | nil =>
    cases m' with
    | nil => rfl
    | cons e m' =>
      simp only [Memory.wfFrom, Bool.and_eq_true, decide_eq_true_eq] at hm'
      have := h e.1
      simp only [Memory.read, if_true] at this
      exact absurd this.symm hm'.1.2
  | cons e m ih =>
    have hm0 := hm
    simp only [Memory.wfFrom, Bool.and_eq_true, decide_eq_true_eq] at hm
    cases m' with
    | nil =>
      have := h e.1
      simp only [Memory.read, if_true] at this
      exact absurd this hm.1.2
    | cons e' m' =>
      have hm0' := hm'
      simp only [Memory.wfFrom, Bool.and_eq_true, decide_eq_true_eq] at hm'
      have hk : e.1 = e'.1 := by
        rcases Nat.lt_trichotomy e.1 e'.1 with hlt | heq | hgt
        · have := h e.1
          rw [Memory.read, if_pos rfl, Memory.read, if_neg (by omega), low hm'.2 (by omega)] at this
          exact absurd this hm.1.2
        · exact heq
        · have := h e'.1
          rw [Memory.read, if_neg (by omega), low hm.2 (by omega), Memory.read, if_pos rfl] at this
          exact absurd this.symm hm'.1.2
      have hd : e.2 = e'.2 := by
        have := h e.1
        rwa [Memory.read, if_pos rfl, Memory.read, if_pos hk.symm] at this
      have hee : e = e' := Prod.ext hk hd
      subst hee
      congr 1
      refine ih hm.2 hm'.2 fun a => ?_
      by_cases ha : e.1 = a
      · rw [low hm.2 (by omega), low hm'.2 (by omega)]
      · have := h a
        rwa [Memory.read, if_neg ha, Memory.read, if_neg ha] at this

end Sys2Proof.Machine
end

