-- ==== Sys2Proof/Laws/Ops.lean ====
section
/-! SUPPORT. One lemma for each shared operation that says all it can do, and the inversions of STEP, of the host's
operations and of `step`. -/

namespace Sys2Proof.Machine

variable (s : State)

/-! ### The call stack (R141, R143) -/

theorem State.push_of_lt (a : Word) (h : s.sp.val < 16) :
    s.push a = some (s.setStack (s.stack.set s.sp.val a) ⟨s.sp.val + 1, by omega⟩) := dif_pos h

theorem State.push_of_full (a : Word) (h : ¬ s.sp.val < 16) : s.push a = none := dif_neg h

theorem State.pop_of_pos (h : 0 < s.sp.val) :
    s.pop = some (s.stack[s.sp.val - 1], s.setStack s.stack ⟨s.sp.val - 1, by omega⟩) := dif_pos h

theorem State.pop_of_empty (h : ¬ 0 < s.sp.val) : s.pop = none := dif_neg h

/-! ### Operands -/

theorem State.isDown_of_lt (k : Byte) (h : k.toNat < 16) : s.isDown k = some s.key[k.toNat] := dif_pos h

theorem State.isDown_of_ge (k : Byte) (h : ¬ k.toNat < 16) : s.isDown k = none := dif_neg h

@[simp] theorem State.bytesAt_length (a n : Nat) : (s.bytesAt a n).length = n := by simp [State.bytesAt]

theorem State.bytesAt_get (a n k : Nat) (h : k < n) : (s.bytesAt a n)[k]? = some (s.byteAt (a + k)) := by
  simp [State.bytesAt, h]

@[simp] theorem State.firstRegs_length (x : Reg) : (s.firstRegs x).length = x.val + 1 := by
  simp only [State.firstRegs, List.length_take, Vector.length_toList]; omega

theorem State.firstRegs_getD (x : Reg) (k : Fin 16) (h : k ≤ x) : (s.firstRegs x).getD k.val 0 = s.reg k := by
  have hk : k.val < x.val + 1 := Nat.lt_succ_of_le h
  simp [State.firstRegs, State.reg, List.getD_eq_getElem?_getD, hk]

@[simp] theorem bcdDigits_length (b : Byte) : (bcdDigits b).length = 3 := rfl

/-! ### Fetch, and the end of a STEP (R121, R128, R129) -/

theorem fetch_of_le (h : s.pc.toNat + 1 < 4096) :
    fetch s = some (opcodeOfBytes (s.byteAt s.pc.toNat) (s.byteAt (s.pc.toNat + 1))) :=
  if_neg (Nat.not_le.mpr h)

theorem fetch_of_gt (h : 4096 ≤ s.pc.toNat + 1) : fetch s = none := if_pos h

theorem fetch_eq_some {op : Word} (h : fetch s = some op) :
    s.pc.toNat + 1 < 4096 ∧ op = opcodeOfBytes (s.byteAt s.pc.toNat) (s.byteAt (s.pc.toNat + 1)) := by
  by_cases hp : 4096 ≤ s.pc.toNat + 1
  · rw [fetch_of_gt s hp] at h; cases h
  · rw [fetch_of_le s (by omega)] at h; exact ⟨by omega, (Option.some.inj h).symm⟩

/-- Fetch reads PC, memory and FONT only. -/
theorem fetch_congr {t : State} (hp : t.pc = s.pc) (hm : t.mem = s.mem) (hf : t.font = s.font) : fetch t = fetch s := by
  simp [fetch, State.byteAt, hp, hm, hf]

@[simp] theorem endOfStep_v (w : Bool) : (endOfStep w s).v = s.v := rfl
@[simp] theorem endOfStep_i (w : Bool) : (endOfStep w s).i = s.i := rfl
@[simp] theorem endOfStep_pc (w : Bool) : (endOfStep w s).pc = s.pc := rfl
@[simp] theorem endOfStep_stack (w : Bool) : (endOfStep w s).stack = s.stack := rfl
@[simp] theorem endOfStep_sp (w : Bool) : (endOfStep w s).sp = s.sp := rfl
@[simp] theorem endOfStep_mem (w : Bool) : (endOfStep w s).mem = s.mem := rfl
@[simp] theorem endOfStep_font (w : Bool) : (endOfStep w s).font = s.font := rfl
@[simp] theorem endOfStep_fb (w : Bool) : (endOfStep w s).fb = s.fb := rfl
@[simp] theorem endOfStep_key (w : Bool) : (endOfStep w s).key = s.key := rfl
@[simp] theorem endOfStep_latch (w : Bool) : (endOfStep w s).latch = s.latch := rfl
@[simp] theorem endOfStep_dt (w : Bool) : (endOfStep w s).dt = tick s.dt := rfl
@[simp] theorem endOfStep_st (w : Bool) : (endOfStep w s).st = tick s.st := rfl
@[simp] theorem endOfStep_wait (w : Bool) : (endOfStep w s).wait = w := rfl
@[simp] theorem endOfStep_fault (w : Bool) : (endOfStep w s).fault = s.fault := rfl
@[simp] theorem endOfStep_rnd (w : Bool) : (endOfStep w s).rnd = none := rfl
@[simp] theorem endOfStep_draws (w : Bool) : (endOfStep w s).draws = s.draws := rfl
@[simp] theorem endOfStep_hostOps (w : Bool) : (endOfStep w s).hostOps = s.hostOps := rfl
@[simp] theorem endOfStep_phase (w : Bool) : (endOfStep w s).phase = .stepping := rfl
@[simp] theorem endOfStep_reg (w : Bool) (q : Reg) : (endOfStep w s).reg q = s.reg q := rfl
@[simp] theorem endOfStep_byteAt (w : Bool) (a : Nat) : (endOfStep w s).byteAt a = s.byteAt a := rfl
@[simp] theorem endOfStep_pixel (w : Bool) (py px : Nat) : (endOfStep w s).pixel py px = s.pixel py px := rfl

theorem finish_of_none {i : Instr} {t : State} (h : t.fault = none) : finish i s t = endOfStep (waitAfter i s) t := by
  simp [finish, h]

theorem finish_of_some {i : Instr} {t : State} {k : FaultKind} (h : t.fault = some k) : finish i s t = t := by
  simp [finish, h]

/-! ### STEP (R125, R130) -/

theorem coreStep_of_fault {k : FaultKind} (h : s.fault = some k) : coreStep s = .next s := by simp [coreStep, h]

theorem coreStep_of_fetch_none (h : s.fault = none) (hf : fetch s = none) : coreStep s = .next (s.setFault .outOfBounds) := by
  simp [coreStep, h, hf, raise]

theorem coreStep_of_fetch_some {op : Word} (h : s.fault = none) (hf : fetch s = some op) : coreStep s = runOpcode op s := by
  simp [coreStep, h, hf]

/-- Everything a STEP that answers a next state can be. -/
theorem coreStep_cases {t : State} (h : coreStep s = .next t) :
    ((∃ k, s.fault = some k) ∧ t = s) ∨
    (s.fault = none ∧ fetch s = none ∧ t = s.setFault .outOfBounds) ∨
    (s.fault = none ∧ ∃ op u, fetch s = some op ∧ exec (decode op) s = .next u ∧ t = finish (decode op) s u) := by
  cases hf : s.fault with
  | some k =>
    rw [coreStep_of_fault s hf] at h
    exact Or.inl ⟨⟨k, rfl⟩, (Host.Outcome.next.inj h).symm⟩
  | none =>
    cases ho : fetch s with
    | none =>
      rw [coreStep_of_fetch_none s hf ho] at h
      exact Or.inr (Or.inl ⟨rfl, rfl, (Host.Outcome.next.inj h).symm⟩)
    | some op =>
      rw [coreStep_of_fetch_some s hf ho] at h
      unfold runOpcode at h
      split at h
      · rename_i u hu
        exact Or.inr (Or.inr ⟨rfl, op, u, rfl, hu, (Host.Outcome.next.inj h).symm⟩)
      · cases h
      · cases h

/-! ### The host's operations (R257, R259) -/

theorem whenLive_of_live (r : Result) (hp : s.phase ≠ .beforeReset) (hf : s.fault = none) : whenLive s r = r := by
  simp [whenLive, hp, hf]

theorem whenLive_of_fault (r : Result) {k : FaultKind} (hp : s.phase ≠ .beforeReset) (hf : s.fault = some k) :
    whenLive s r = .next s := by
  simp [whenLive, hp, hf]

theorem whenLive_before (r : Result) (hp : s.phase = .beforeReset) : whenLive s r = .refused .beforeReset := by
  simp [whenLive, hp]

theorem whenLive_cases {r : Result} {t : State} (h : whenLive s r = .next t) :
    s.phase ≠ .beforeReset ∧ (((∃ k, s.fault = some k) ∧ t = s) ∨ (s.fault = none ∧ r = .next t)) := by
  by_cases hp : s.phase = .beforeReset
  · rw [whenLive_before s r hp] at h; cases h
  · cases hf : s.fault with
    | some k =>
      rw [whenLive_of_fault s r hp hf] at h
      exact ⟨hp, Or.inl ⟨⟨k, rfl⟩, (Host.Outcome.next.inj h).symm⟩⟩
    | none =>
      rw [whenLive_of_live s r hp hf] at h
      exact ⟨hp, Or.inr ⟨rfl, h⟩⟩

theorem step_of_scheduled {op : HostOp} {ops : List HostOp} (h : s.hostOps = op :: ops) :
    step s = performOp op (s.setHostOps ops) := by
  simp [step, nextOperation, h]

theorem step_unscheduled (h : s.hostOps = []) : step s = whenLive s (coreStep s) := by
  simp [step, nextOperation, h]

theorem step_of_live (h : s.Live) : step s = coreStep s := by
  rw [step_unscheduled s h.1, whenLive_of_live s _ h.2.1 h.2.2]

/-- An unscheduled STEP of a live core runs from the state itself. -/
theorem stepsFrom_of_live (h : s.Live) : s.StepsFrom s := ⟨h.2.1, h.2.2, Or.inl ⟨h.1, rfl⟩⟩

/-- Every STEP of a live core, scheduled or not, is `coreStep` of the state it starts from. -/
theorem step_of_stepsFrom {u : State} (h : s.StepsFrom u) : step s = coreStep u := by
  obtain ⟨hp, hf, ⟨ho, rfl⟩ | ⟨r, ops, ho, rfl⟩⟩ := h
  · exact step_of_live _ ⟨ho, hp, hf⟩
  · rw [step_of_scheduled s ho]; exact whenLive_of_live (s.setHostOps ops) _ hp hf

/-- What a STEP starts from is the state itself but for the model's own fields `hostOps` and `rnd`. -/
theorem stepsFrom_eq {u : State} (h : s.StepsFrom u) : u = { s with hostOps := u.hostOps, rnd := u.rnd } := by
  obtain ⟨-, -, ⟨-, rfl⟩ | ⟨r, ops, -, rfl⟩⟩ := h <;> rfl

theorem stepsFrom_fault {u : State} (h : s.StepsFrom u) : u.fault = none := by rw [stepsFrom_eq s h]; exact h.2.1

theorem stepsFrom_fetch {u : State} (h : s.StepsFrom u) : fetch u = fetch s := by rw [stepsFrom_eq s h]; rfl

/-- Everything a LOAD that answers a next state can be (R252). -/
theorem loadRom_cases {bytes : List Byte} {t : State} (h : loadRom bytes s = .next t) :
    s.phase = .afterReset ∧
      ((3584 < bytes.length ∧ t = s.setFault .romTooLarge) ∨
       (bytes.length ≤ 3584 ∧ t = (s.setMem (Memory.writeBytes s.font s.mem 0x200 bytes)).setPhase .loaded)) := by
  unfold loadRom at h
  split at h
  · rename_i hp
    refine ⟨hp, ?_⟩
    split at h
    · rename_i hl; exact Or.inl ⟨hl, (Host.Outcome.next.inj h).symm⟩
    · rename_i hl; exact Or.inr ⟨Nat.not_lt.mp hl, (Host.Outcome.next.inj h).symm⟩
  · cases h

end Sys2Proof.Machine
end

