-- ==== Sys2Proof/Laws/PerInstr.lean ====
section
/-! SUPPORT. Per instruction: the encoding of a well-formed instruction matches the mask and value of its own row of the
opcode map, that row is one of the 34 of R94, and only a no-operation has none (R93, R94, R103). -/

namespace Sys2Proof.Laws.EncodingFitsRow

/-- The encoding matches the instruction's own row, and the row is in the opcode map unless no row matches. -/
def Statement (i : Instr) : Prop :=
  i.wellFormed = true →
    (rowOf i).matches (encode i) = true ∧
    (rowOf i ∈ opcodeMap ∨ ((∃ op, i = .nop op) ∧ ∀ r ∈ opcodeMap, r.matches (encode i) = false))

theorem of_F000 {i : Instr} {f : Nibble} (hr : rowOf i = ⟨0xF000, wordOfNibbles f 0 0 0⟩) (hf : opF (encode i) = f)
    (hm : rowOf i ∈ opcodeMap) : Statement i := by
  intro _
  refine ⟨?_, Or.inl hm⟩
  rw [hr, OpcodeRow.matches, beq_iff_eq]
  exact (and_F000_eq _ _).mpr hf

theorem of_F00F {i : Instr} {f n : Nibble} (hr : rowOf i = ⟨0xF00F, wordOfNibbles f 0 0 n⟩) (hf : opF (encode i) = f)
    (hn : opN (encode i) = n) (hm : rowOf i ∈ opcodeMap) : Statement i := by
  intro _
  refine ⟨?_, Or.inl hm⟩
  rw [hr, OpcodeRow.matches, beq_iff_eq]
  exact (and_F00F_eq _ _ _).mpr ⟨hf, hn⟩

theorem of_F0FF {i : Instr} {f : Nibble} {k : Byte} (hr : rowOf i = ⟨0xF0FF, wordOfXkk f 0 k⟩) (hf : opF (encode i) = f)
    (hk : opKk (encode i) = k) (hm : rowOf i ∈ opcodeMap) : Statement i := by
  intro _
  refine ⟨?_, Or.inl hm⟩
  rw [hr, OpcodeRow.matches, beq_iff_eq]
  exact (and_F0FF_eq _ _ _).mpr ⟨hf, hk⟩

theorem op00E0 : Statement (.op00E0) := fun _ => ⟨by decide, Or.inl (by decide)⟩

theorem op00EE : Statement (.op00EE) := fun _ => ⟨by decide, Or.inl (by decide)⟩

theorem op1nnn (nnn : Imm12) : Statement (.op1nnn nnn) :=
  of_F000 (f := 0x1) rfl (by simp [encode]) (by simp [rowOf, opcodeMap])

theorem op2nnn (nnn : Imm12) : Statement (.op2nnn nnn) :=
  of_F000 (f := 0x2) rfl (by simp [encode]) (by simp [rowOf, opcodeMap])

theorem op3xkk (x : Reg) (kk : Byte) : Statement (.op3xkk x kk) :=
  of_F000 (f := 0x3) rfl (by simp [encode]) (by simp [rowOf, opcodeMap])

theorem op4xkk (x : Reg) (kk : Byte) : Statement (.op4xkk x kk) :=
  of_F000 (f := 0x4) rfl (by simp [encode]) (by simp [rowOf, opcodeMap])

theorem op5xy0 (x : Reg) (y : Reg) : Statement (.op5xy0 x y) :=
  of_F00F (f := 0x5) (n := 0x0) rfl (by simp [encode]) (by simp [encode]) (by simp [rowOf, opcodeMap])

theorem op6xkk (x : Reg) (kk : Byte) : Statement (.op6xkk x kk) :=
  of_F000 (f := 0x6) rfl (by simp [encode]) (by simp [rowOf, opcodeMap])

theorem op7xkk (x : Reg) (kk : Byte) : Statement (.op7xkk x kk) :=
  of_F000 (f := 0x7) rfl (by simp [encode]) (by simp [rowOf, opcodeMap])

theorem op8xy0 (x : Reg) (y : Reg) : Statement (.op8xy0 x y) :=
  of_F00F (f := 0x8) (n := 0x0) rfl (by simp [encode]) (by simp [encode]) (by simp [rowOf, opcodeMap])

theorem op8xy1 (x : Reg) (y : Reg) : Statement (.op8xy1 x y) :=
  of_F00F (f := 0x8) (n := 0x1) rfl (by simp [encode]) (by simp [encode]) (by simp [rowOf, opcodeMap])

theorem op8xy2 (x : Reg) (y : Reg) : Statement (.op8xy2 x y) :=
  of_F00F (f := 0x8) (n := 0x2) rfl (by simp [encode]) (by simp [encode]) (by simp [rowOf, opcodeMap])

theorem op8xy3 (x : Reg) (y : Reg) : Statement (.op8xy3 x y) :=
  of_F00F (f := 0x8) (n := 0x3) rfl (by simp [encode]) (by simp [encode]) (by simp [rowOf, opcodeMap])

theorem op8xy4 (x : Reg) (y : Reg) : Statement (.op8xy4 x y) :=
  of_F00F (f := 0x8) (n := 0x4) rfl (by simp [encode]) (by simp [encode]) (by simp [rowOf, opcodeMap])

theorem op8xy5 (x : Reg) (y : Reg) : Statement (.op8xy5 x y) :=
  of_F00F (f := 0x8) (n := 0x5) rfl (by simp [encode]) (by simp [encode]) (by simp [rowOf, opcodeMap])

theorem op8xy6 (x : Reg) (y : Reg) : Statement (.op8xy6 x y) :=
  of_F00F (f := 0x8) (n := 0x6) rfl (by simp [encode]) (by simp [encode]) (by simp [rowOf, opcodeMap])

theorem op8xy7 (x : Reg) (y : Reg) : Statement (.op8xy7 x y) :=
  of_F00F (f := 0x8) (n := 0x7) rfl (by simp [encode]) (by simp [encode]) (by simp [rowOf, opcodeMap])

theorem op8xyE (x : Reg) (y : Reg) : Statement (.op8xyE x y) :=
  of_F00F (f := 0x8) (n := 0xE) rfl (by simp [encode]) (by simp [encode]) (by simp [rowOf, opcodeMap])

theorem op9xy0 (x : Reg) (y : Reg) : Statement (.op9xy0 x y) :=
  of_F00F (f := 0x9) (n := 0x0) rfl (by simp [encode]) (by simp [encode]) (by simp [rowOf, opcodeMap])

theorem opAnnn (nnn : Imm12) : Statement (.opAnnn nnn) :=
  of_F000 (f := 0xA) rfl (by simp [encode]) (by simp [rowOf, opcodeMap])

theorem opBnnn (nnn : Imm12) : Statement (.opBnnn nnn) :=
  of_F000 (f := 0xB) rfl (by simp [encode]) (by simp [rowOf, opcodeMap])

theorem opCxkk (x : Reg) (kk : Byte) : Statement (.opCxkk x kk) :=
  of_F000 (f := 0xC) rfl (by simp [encode]) (by simp [rowOf, opcodeMap])

theorem opDxyn (x : Reg) (y : Reg) (n : Nibble) : Statement (.opDxyn x y n) :=
  of_F000 (f := 0xD) rfl (by simp [encode]) (by simp [rowOf, opcodeMap])

theorem opEx9E (x : Reg) : Statement (.opEx9E x) :=
  of_F0FF (f := 0xE) (k := 0x9E) rfl (by simp [encode]) (by simp [encode]) (by simp [rowOf, opcodeMap])

theorem opExA1 (x : Reg) : Statement (.opExA1 x) :=
  of_F0FF (f := 0xE) (k := 0xA1) rfl (by simp [encode]) (by simp [encode]) (by simp [rowOf, opcodeMap])

theorem opFx07 (x : Reg) : Statement (.opFx07 x) :=
  of_F0FF (f := 0xF) (k := 0x07) rfl (by simp [encode]) (by simp [encode]) (by simp [rowOf, opcodeMap])

theorem opFx0A (x : Reg) : Statement (.opFx0A x) :=
  of_F0FF (f := 0xF) (k := 0x0A) rfl (by simp [encode]) (by simp [encode]) (by simp [rowOf, opcodeMap])

theorem opFx15 (x : Reg) : Statement (.opFx15 x) :=
  of_F0FF (f := 0xF) (k := 0x15) rfl (by simp [encode]) (by simp [encode]) (by simp [rowOf, opcodeMap])

theorem opFx18 (x : Reg) : Statement (.opFx18 x) :=
  of_F0FF (f := 0xF) (k := 0x18) rfl (by simp [encode]) (by simp [encode]) (by simp [rowOf, opcodeMap])

theorem opFx1E (x : Reg) : Statement (.opFx1E x) :=
  of_F0FF (f := 0xF) (k := 0x1E) rfl (by simp [encode]) (by simp [encode]) (by simp [rowOf, opcodeMap])

theorem opFx29 (x : Reg) : Statement (.opFx29 x) :=
  of_F0FF (f := 0xF) (k := 0x29) rfl (by simp [encode]) (by simp [encode]) (by simp [rowOf, opcodeMap])

theorem opFx33 (x : Reg) : Statement (.opFx33 x) :=
  of_F0FF (f := 0xF) (k := 0x33) rfl (by simp [encode]) (by simp [encode]) (by simp [rowOf, opcodeMap])

theorem opFx55 (x : Reg) : Statement (.opFx55 x) :=
  of_F0FF (f := 0xF) (k := 0x55) rfl (by simp [encode]) (by simp [encode]) (by simp [rowOf, opcodeMap])

theorem opFx65 (x : Reg) : Statement (.opFx65 x) :=
  of_F0FF (f := 0xF) (k := 0x65) rfl (by simp [encode]) (by simp [encode]) (by simp [rowOf, opcodeMap])

theorem nop (op : Word) : Statement (.nop op) := by
  intro h
  refine ⟨by simp [rowOf, OpcodeRow.matches], Or.inr ⟨⟨op, rfl⟩, fun r hr => ?_⟩⟩
  simp only [Instr.wellFormed, matchesPattern, Bool.not_eq_true', List.any_eq_false] at h
  simpa [encode] using h r hr

end Sys2Proof.Laws.EncodingFitsRow
end

