-- ==== Sys2Proof/Tests/Slice0.lean ====
section
/-! SUPPORT. Tests: the WellFormed smoke, words written out from 30_encoding, single steps with the results of
spec/95_test_vectors.md (the vector is named in each comment), the host's operations, and for every obligation with
hypotheses a concrete state that meets them. -/

namespace Sys2Proof.Tests

open Sys2Proof.Machine

/-! ### Helpers -/

/-- The state after one step, if it answers one. -/
def next (s : State) : Option State :=
  match step s with
  | .next t => some t
  | _ => none

/-- One STEP from `s` with the word `op` at PC, as the vectors are set up. -/
def stepFrom (s : State) (op : Nat) : Option State := next (s.withFetchWord 16 op)

/-- The reset state with some general registers written. -/
def regs (rs : List (Reg × Byte)) : State := rs.foldl (fun s p => s.setReg p.1 p.2) State.reset

/-- The reset state with `op` at PC. -/
def at200 (op : Word) : State := State.reset.placeWord op

/-- The reset state with the host's operations scheduled. -/
def hosted (ops : List HostOp) : State := State.reset.setHostOps ops

/-- The execute phase alone. -/
def ran (i : Instr) (s : State) : Option State :=
  match exec i s with
  | .next t => some t
  | _ => none

/-! ### WellFormed: the one check, a no-operation whose word is another instruction's -/

theorem test_nop_of_a_clear_is_ill_formed : (Instr.nop 0x00E0).wellFormed = false := by decide
theorem test_nop_of_a_key_wait_is_ill_formed : (Instr.nop 0xFA0A).wellFormed = false := by decide
theorem test_nop_of_an_unmatched_word_is_well_formed : (Instr.nop 0x01EE).wellFormed = true := by decide

/-! ### Decoding, from 30_encoding R94: literal digits and fields written out by hand -/

theorem test_dec_00E0 : decode 0x00E0 = .op00E0 := by decide
theorem test_dec_00EE : decode 0x00EE = .op00EE := by decide
theorem test_dec_1nnn : decode 0x1FED = .op1nnn 0xFED := by decide
theorem test_dec_2nnn : decode 0x2ABC = .op2nnn 0xABC := by decide
theorem test_dec_3xkk : decode 0x3A42 = .op3xkk 0xA 0x42 := by decide
theorem test_dec_4xkk : decode 0x4B17 = .op4xkk 0xB 0x17 := by decide
theorem test_dec_5xy0 : decode 0x5120 = .op5xy0 1 2 := by decide
theorem test_dec_6xkk : decode 0x6F80 = .op6xkk 0xF 0x80 := by decide
theorem test_dec_7xkk : decode 0x7201 = .op7xkk 2 0x01 := by decide
theorem test_dec_8xy0 : decode 0x8120 = .op8xy0 1 2 := by decide
theorem test_dec_8xy1 : decode 0x8341 = .op8xy1 3 4 := by decide
theorem test_dec_8xy2 : decode 0x8562 = .op8xy2 5 6 := by decide
theorem test_dec_8xy3 : decode 0x8783 = .op8xy3 7 8 := by decide
theorem test_dec_8xy4 : decode 0x89A4 = .op8xy4 9 0xA := by decide
theorem test_dec_8xy5 : decode 0x8BC5 = .op8xy5 0xB 0xC := by decide
theorem test_dec_8xy6 : decode 0x8DE6 = .op8xy6 0xD 0xE := by decide
theorem test_dec_8xy7 : decode 0x8F07 = .op8xy7 0xF 0 := by decide
theorem test_dec_8xyE : decode 0x8F1E = .op8xyE 0xF 1 := by decide
theorem test_dec_9xy0 : decode 0x9AB0 = .op9xy0 0xA 0xB := by decide
theorem test_dec_Annn : decode 0xA2F0 = .opAnnn 0x2F0 := by decide
theorem test_dec_Bnnn : decode 0xBFFF = .opBnnn 0xFFF := by decide
theorem test_dec_Cxkk : decode 0xC30F = .opCxkk 3 0x0F := by decide
theorem test_dec_Dxyn : decode 0xD12F = .opDxyn 1 2 0xF := by decide
theorem test_dec_Ex9E : decode 0xE29E = .opEx9E 2 := by decide
theorem test_dec_ExA1 : decode 0xE3A1 = .opExA1 3 := by decide
theorem test_dec_Fx07 : decode 0xF407 = .opFx07 4 := by decide
theorem test_dec_Fx0A : decode 0xF50A = .opFx0A 5 := by decide
theorem test_dec_Fx15 : decode 0xF615 = .opFx15 6 := by decide
theorem test_dec_Fx18 : decode 0xF718 = .opFx18 7 := by decide
theorem test_dec_Fx1E : decode 0xF81E = .opFx1E 8 := by decide
theorem test_dec_Fx29 : decode 0xF929 = .opFx29 9 := by decide
theorem test_dec_Fx33 : decode 0xFA33 = .opFx33 0xA := by decide
theorem test_dec_Fx55 : decode 0xFB55 = .opFx55 0xB := by decide
theorem test_dec_Fx65 : decode 0xFC65 = .opFx65 0xC := by decide
theorem test_dec_nop : decode 0x5121 = .nop 0x5121 ∧ decode 0xFFFF = .nop 0xFFFF := by decide

/-- The byte decoder takes the high byte first and leaves the rest; a lone byte is rejected by name (R62, R91). -/
theorem test_dec_bytes : decodeBytes [0x6A, 0x2F, 0x77] = .ok (.op6xkk 0xA 0x2F, [0x77]) := by decide
theorem test_dec_truncated : decodeBytes [0x6A] = .error .truncated := by decide

/-! ### The STEP cycle -/

/-- S1. -/
theorem test_nop_ticks_both_timers :
    (stepFrom ((State.reset.setDt 3).setSt 1) 0x0000).map (fun t => (t.pc, t.dt, t.st)) = some (0x0202, 2, 0) := by decide
/-- S14: the last address that can be fetched. -/
theorem test_fetch_at_the_end : (stepFrom (State.reset.setPc 0x0FFE) 0x0000).map (·.pc) = some 0x1000 := by decide
/-- S13: no tick on a fault. -/
theorem test_fetch_beyond_the_end :
    next ((State.reset.setPc 0x0FFF).setDt 5) = some (((State.reset.setPc 0x0FFF).setDt 5).setFault .outOfBounds) := by decide
/-- S17: an odd PC. -/
theorem test_odd_pc :
    (stepFrom (State.reset.setPc 0x0201) 0x6A12).map (fun t => (t.reg 0xA, t.pc)) = some (0x12, 0x0203) := by decide

/-! ### Control flow -/

/-- C7: the pushed address is 0x1000. -/
theorem test_call : (stepFrom (State.reset.setPc 0x0FFE) 0x2300).map (fun t => (t.pc, t.sp, t.stack[0])) =
    some (0x0300, 1, 0x1000) := by decide
/-- C3. -/
theorem test_call_full : (stepFrom (State.reset.setStack State.reset.stack 16) 0x2300).map (fun t => (t.pc, t.sp, t.fault)) =
    some (0x0200, 16, some .stackOverflow) := by decide
/-- C6. -/
theorem test_ret : (stepFrom (State.reset.setStack (State.reset.stack.set 15 0x0ABC) 16) 0x00EE).map
    (fun t => (t.pc, t.sp, t.stack[15])) = some (0x0ABC, 15, 0x0ABC) := by decide
/-- C5. -/
theorem test_ret_empty : (stepFrom (State.reset.setDt 4) 0x00EE).map (fun t => (t.pc, t.dt, t.fault)) =
    some (0x0200, 4, some .stackUnderflow) := by decide
/-- C8. -/
theorem test_jump : (stepFrom (State.reset.setPc 0x0204) 0x1ABC).map (·.pc) = some 0x0ABC := by decide
/-- C13: no reduction to 12 bits. -/
theorem test_jump_v0 : (stepFrom (regs [(0, 0xFF)]) 0xBFFF).map (·.pc) = some 0x10FE := by decide
/-- C14: register 0 whatever the second digit. -/
theorem test_jump_always_v0 : (stepFrom (regs [(0, 0x04), (3, 0x80)]) 0xB300).map (·.pc) = some 0x0304 := by decide
/-- C15, C16. -/
theorem test_se_kk : (stepFrom (regs [(3, 0x2A)]) 0x332A).map (·.pc) = some 0x0204 := by decide
theorem test_se_kk_not : (stepFrom (regs [(3, 0x2B)]) 0x332A).map (·.pc) = some 0x0202 := by decide
/-- C17, C18. -/
theorem test_sne_kk_not : (stepFrom (regs [(3, 0x2A)]) 0x432A).map (·.pc) = some 0x0202 := by decide
theorem test_sne_kk : (stepFrom (regs [(3, 0x00)]) 0x432A).map (·.pc) = some 0x0204 := by decide
/-- C19, C20. -/
theorem test_se_reg : (stepFrom (regs [(1, 7), (2, 7)]) 0x5120).map (·.pc) = some 0x0204 := by decide
theorem test_se_reg_not : (stepFrom (regs [(1, 7), (2, 8)]) 0x5120).map (·.pc) = some 0x0202 := by decide
/-- C22, C24. -/
theorem test_sne_reg : (stepFrom (regs [(1, 7), (2, 8)]) 0x9120).map (·.pc) = some 0x0204 := by decide
theorem test_sne_reg_same : (stepFrom (regs [(1, 0x33)]) 0x9110).map (·.pc) = some 0x0202 := by decide

/-! ### Registers and arithmetic -/

/-- A2. -/
theorem test_ld_kk : (stepFrom State.reset 0x6FFF).map (fun t => (t.reg Reg.VF, t.pc)) = some (0xFF, 0x0202) := by decide
/-- A4: wraps, VF keeps its 1. -/
theorem test_add_kk : (stepFrom (regs [(2, 0xFF), (0xF, 1)]) 0x7201).map (fun t => (t.reg 2, t.reg Reg.VF)) =
    some (0x00, 1) := by decide
/-- A7. -/
theorem test_ld_reg : (stepFrom (regs [(1, 0x55)]) 0x8010).map (fun t => (t.reg 0, t.reg 1)) = some (0x55, 0x55) := by decide
/-- A8, A9, A10: VF is not cleared. -/
theorem test_or : (stepFrom (regs [(0, 0xF0), (1, 0x0F), (0xF, 1)]) 0x8011).map (fun t => (t.reg 0, t.reg Reg.VF)) =
    some (0xFF, 1) := by decide
theorem test_and : (stepFrom (regs [(0, 0xF0), (1, 0x3C), (0xF, 1)]) 0x8012).map (fun t => (t.reg 0, t.reg Reg.VF)) =
    some (0x30, 1) := by decide
theorem test_xor : (stepFrom (regs [(0, 0xF0), (1, 0x3C), (0xF, 1)]) 0x8013).map (fun t => (t.reg 0, t.reg Reg.VF)) =
    some (0xCC, 1) := by decide
/-- A12, A18: the carry; with x = F the sum wins. -/
theorem test_add : (stepFrom (regs [(1, 0xFF), (2, 0x01)]) 0x8124).map (fun t => (t.reg 1, t.reg Reg.VF)) =
    some (0x00, 1) := by decide
theorem test_add_to_flag : (stepFrom (regs [(0xF, 0xF0), (1, 0x20)]) 0x8F14).map (·.reg Reg.VF) = some 0x10 := by decide
/-- A23, A25: the borrow; equal operands give 0. -/
theorem test_sub : (stepFrom (regs [(1, 3), (2, 5), (0xF, 1)]) 0x8125).map (fun t => (t.reg 1, t.reg Reg.VF)) =
    some (0xFE, 0) := by decide
theorem test_sub_equal : (stepFrom (regs [(1, 5), (2, 5), (0xF, 1)]) 0x8125).map (fun t => (t.reg 1, t.reg Reg.VF)) =
    some (0x00, 0) := by decide
/-- A30, A35: in place, y ignored; with x = F the result wins. -/
theorem test_shr : (stepFrom (regs [(3, 5), (0xA, 0x77)]) 0x83A6).map (fun t => (t.reg 3, t.reg 0xA, t.reg Reg.VF)) =
    some (0x02, 0x77, 1) := by decide
theorem test_shr_flag : (stepFrom (regs [(0xF, 5)]) 0x8F06).map (·.reg Reg.VF) = some 0x02 := by decide
/-- A37, A40: the reverse difference; y = F is read before the flag is written. -/
theorem test_subn : (stepFrom (regs [(0, 1), (1, 0), (0xF, 1)]) 0x8017).map (fun t => (t.reg 0, t.reg Reg.VF)) =
    some (0xFF, 0) := by decide
theorem test_subn_flag_source : (stepFrom (regs [(0, 3), (0xF, 0x0A)]) 0x80F7).map (fun t => (t.reg 0, t.reg Reg.VF)) =
    some (0x07, 1) := by decide
/-- A41, A43. -/
theorem test_shl : (stepFrom (regs [(3, 0x81)]) 0x830E).map (fun t => (t.reg 3, t.reg Reg.VF)) = some (0x02, 1) := by decide
theorem test_shl_no_carry : (stepFrom (regs [(3, 0x7F), (0xF, 1)]) 0x830E).map (fun t => (t.reg 3, t.reg Reg.VF)) =
    some (0xFE, 0) := by decide
/-- A46, A47: a draw the host names. -/
theorem test_rnd : (stepFrom (State.reset.setRnd (some 0xA7)) 0xC30F).map (fun t => (t.reg 3, t.rnd)) =
    some (0x07, none) := by decide
theorem test_rnd_mask_zero : (stepFrom ((regs [(3, 0x55)]).setRnd (some 0xFF)) 0xC300).map (·.reg 3) = some 0x00 := by decide

/-! ### The index register and memory -/

/-- M2. -/
theorem test_ld_i : (stepFrom (State.reset.setI 0x1234) 0xAFFF).map (·.i) = some 0x0FFF := by decide
/-- M4, M5. -/
theorem test_add_i : (stepFrom ((regs [(2, 1)]).setI 0x0FFF) 0xF21E).map (fun t => (t.i, t.reg Reg.VF)) =
    some (0x1000, 0) := by decide
theorem test_add_i_wraps : (stepFrom ((regs [(2, 1)]).setI 0xFFFF) 0xF21E).map (·.i) = some 0x0000 := by decide
/-- M6, M7: the whole byte. -/
theorem test_glyph : (stepFrom (regs [(4, 0x0A)]) 0xF429).map (·.i) = some 0x0082 := by decide
theorem test_glyph_of_ff : (stepFrom (regs [(4, 0xFF)]) 0xF429).map (·.i) = some 0x054B := by decide
/-- M14, M15. -/
theorem test_bcd : (stepFrom ((regs [(1, 0x7B)]).setI 0x0FFD) 0xF133).map (fun t => t.bytesAt 0xFFD 3) =
    some [1, 2, 3] := by decide
theorem test_bcd_beyond : (stepFrom ((regs [(1, 0x7B)]).setI 0x0FFE) 0xF133).map (fun t => (t.bytesAt 0xFFE 2, t.fault)) =
    some ([0, 0], some .outOfBounds) := by decide
/-- M17, M20. -/
theorem test_store : (stepFrom ((regs [(0, 0x11), (1, 0x22), (2, 0x33), (3, 0x44)]).setI 0x0300) 0xF255).map
    (fun t => (t.bytesAt 0x300 4, t.i)) = some ([0x11, 0x22, 0x33, 0x00], 0x0300) := by decide
theorem test_store_beyond : (stepFrom ((regs [(0, 0xA0), (0xF, 0xAF)]).setI 0x0FF1) 0xFF55).map
    (fun t => (t.byteAt 0xFF1, t.fault)) = some (0, some .outOfBounds) := by decide
/-- M23, M26. -/
theorem test_load : (stepFrom (((regs [(3, 0x99)]).setI 0x0300).storeBytes 0x300 [0x11, 0x22, 0x33, 0x44]) 0xF265).map
    (fun t => ((t.reg 0, t.reg 1), t.reg 2, t.reg 3)) = some ((0x11, 0x22), 0x33, 0x99) := by decide
theorem test_load_beyond : (stepFrom (((regs [(0, 1), (1, 2)]).setI 0x0FFF).storeBytes 0xFFF [0x77]) 0xF165).map
    (fun t => (t.reg 0, t.reg 1, t.fault)) = some (1, 2, some .outOfBounds) := by decide
/-- Writing what an unlisted address reads as removes the entry. -/
theorem test_memory_canonical :
    Memory.write Config.defaultFont (Memory.write Config.defaultFont [] 0x300 7) 0x300 0 = [] := by decide

/-! ### Display -/

/-- G1: VF untouched. -/
theorem test_clear : (stepFrom ((regs [(0xF, 1)]).setFb (flipPixel clearedFb 31 63)) 0x00E0).map
    (fun t => (decide (t.fb = clearedFb), t.reg Reg.VF)) = some (true, 1) := by decide
/-- G6: anchor (62, 31), clipped on the right and below. -/
theorem test_draw_clips : (stepFrom (((regs [(0, 0x3E), (1, 0x1F)]).setI 0x300).storeBytes 0x300 [0xFF, 0x81]) 0xD012).map
    (fun t => (t.fb[31], t.fb[0], t.reg Reg.VF)) = some (0xC000000000000000, 0, 0) := by decide
/-- G7: the anchor wraps, and the pixels were on. -/
theorem test_draw_collides : (stepFrom ((((regs [(0, 0x7E), (1, 0x3F)]).setI 0x300).storeBytes 0x300 [0xFF]).setFb
    (flipPixel (flipPixel clearedFb 31 62) 31 63)) 0xD011).map (fun t => (t.fb[31], t.reg Reg.VF)) = some (0, 1) := by decide

/-! ### Keypad and timers -/

/-- K9, K4. -/
theorem test_skp : (stepFrom ((regs [(2, 0x0F)]).setKey 15 true) 0xE29E).map (·.pc) = some 0x0204 := by decide
theorem test_skp_bad_key : (stepFrom (regs [(2, 0x10)]) 0xE29E).map (fun t => (t.pc, t.fault)) =
    some (0x0200, some .invalidKey) := by decide
/-- K6, K7. -/
theorem test_sknp : (stepFrom (regs [(2, 5)]) 0xE2A1).map (·.pc) = some 0x0204 := by decide
theorem test_sknp_down : (stepFrom ((regs [(2, 5)]).setKey 5 true) 0xE2A1).map (·.pc) = some 0x0202 := by decide
/-- K10. -/
theorem test_read_dt : (stepFrom (State.reset.setDt 16) 0xF307).map (fun t => (t.reg 3, t.dt)) = some (0x10, 15) := by decide
/-- K12. -/
theorem test_set_dt : (stepFrom (regs [(3, 3)]) 0xF315).map (fun t => (t.dt, t.st)) = some (2, 0) := by decide
/-- K16, K17. -/
theorem test_set_st : (stepFrom (regs [(3, 2)]) 0xF318).map (fun t => (t.st, t.soundOn)) = some (1, true) := by decide
theorem test_set_st_one : (stepFrom (regs [(3, 1)]) 0xF318).map (fun t => (t.st, t.soundOn)) = some (0, false) := by decide
/-- K19, K20. -/
theorem test_wait : (stepFrom (((regs [(1, 0x77)]).setDt 2).setSt 1) 0xF10A).map
    (fun t => (t.pc, t.reg 1, t.wait, t.dt, t.st)) = some (0x0200, 0x77, true, 1, 0) := by decide
theorem test_wait_served : (stepFrom (((regs [(1, 0x77)]).setKey 5 true).setLatch (some 5)) 0xF10A).map
    (fun t => (t.pc, t.reg 1, t.wait, t.latch, t.key[5])) = some (0x0202, 0x05, false, none, true) := by decide

/-! ### The host's operations -/

/-- H2. -/
theorem test_load_rom : (next (hosted [.load [0x12, 0x34, 0x56]])).map (fun t => (t.bytesAt 0x200 4, fetch t)) =
    some ([0x12, 0x34, 0x56, 0x00], some 0x1234) := by decide
/-- H14 with the length alone: 3585 bytes are too many. -/
theorem test_rom_too_large : loadRom (List.replicate 3585 0xAB) State.reset = .next (State.reset.setFault .romTooLarge) := by
  have h : Config.romMax < (List.replicate 3585 (0xAB : Byte)).length := by
    rw [List.length_replicate]; decide
  unfold loadRom; rw [if_pos (show State.reset.phase = .afterReset from rfl), if_pos h]; rfl
/-- H5, the third operation: releasing a key that is not latched. -/
theorem test_release_other : (next (((((hosted [.keyUp 5]).setKey 5 true).setKey 9 true)).setLatch (some 9))).map
    (fun t => (t.key[5], t.key[9], t.latch)) = some (false, true, some 9) := by decide
/-- H6, the third operation: the older key is not brought back. -/
theorem test_release_latched : (next (((((hosted [.keyUp 9]).setKey 5 true).setKey 9 true)).setLatch (some 9))).map
    (fun t => (t.key[5], t.key[9], t.latch)) = some (true, false, none) := by decide
/-- H10: a faulted core takes no key, and RESET frees it. -/
theorem test_faulted_takes_no_key : (next ((hosted [.keyDown 5]).setFault .stackUnderflow)).map
    (fun t => (t.fault, t.key[5], t.latch)) = some (some .stackUnderflow, false, none) := by decide
theorem test_reset_frees : next (((hosted [.reset]).setFault .stackUnderflow).setDt 9) = some State.reset := by decide
/-- H12: bits 2046 and 2047. -/
theorem test_fb_order : rowsValue (flipPixel (flipPixel clearedFb 31 62) 31 63).toList = 2 ^ 2046 + 2 ^ 2047 := by
  decide +kernel
/-- H1: the font's first and last byte and what lies around it (its bytes are the PRESUMED default, log 4). -/
theorem test_reset_memory : ((State.reset.byteAt 0x04F, State.reset.byteAt 0x050), State.reset.byteAt 0x09F,
    State.reset.byteAt 0x0A0) = ((0x00, 0xF0), 0x80, 0x00) := by decide
/-- FONT is an argument (R9): a machine with another font shows it after a RESET. -/
theorem test_font_is_an_argument :
    (next { hosted [.reset] with font := Vector.replicate 80 0x3C }).map (fun t => (t.byteAt 0x050, t.byteAt 0x09F, t.byteAt 0x0A0)) =
      some (0x3C, 0x3C, 0x00) := by decide
/-- From reset with nothing placed, memory is zero and the first STEP is a no-operation (H13). -/
theorem test_first_step_of_empty_memory : (next State.reset).map (·.pc) = some 0x0202 := by decide

/-! ### Witnesses: for every obligation with hypotheses, a state and operands that meet them, clause by clause and at the
boundaries where clauses meet -/

/-- DecodeAfterEncode. -/
theorem test_witness_decode_after_encode :
    (Instr.opDxyn 0xF 0xF 0xF).wellFormed = true ∧ (Instr.nop 0xFFFF).wellFormed = true := by decide

/-- DecoderFollowsOpcodeMap: a word of the last row; a word of no row; a word of a row twice. -/
theorem test_witness_opcode_map :
    (∃ r ∈ opcodeMap, (0xFF65 : Word) &&& r.mask = r.value) ∧ (∀ r ∈ opcodeMap, (0xFFFF : Word) &&& r.mask ≠ r.value) := by
  decide

/-- NoOperationOnlyAdvances: the first clause, and the third at the last address that can be fetched. -/
theorem test_witness_nop : matchesPattern 0x00E1 = false ∧
    ∃ (s : State), s.StepsFrom s ∧ s.pc.toNat = 4094 ∧ fetch s = some 0x0000 ∧ matchesPattern 0x0000 = false :=
  ⟨by decide, State.reset.setPc 0x0FFE, stepsFrom_of_live _ ⟨rfl, by decide, rfl⟩, by decide, by decide, by decide⟩

/-- JumpsSetPc: each jump fetched, with a target of 4095 and of 4095 less V0. -/
theorem test_witness_jumps :
    (∃ s : State, s.StepsFrom s ∧ fetch s = some 0x1FFF ∧ decode 0x1FFF = .op1nnn 0xFFF ∧ 4095 ≤ (0xFFF : Imm12).toNat) ∧
    ∃ s : State, s.StepsFrom s ∧ fetch s = some 0xBFFE ∧ decode 0xBFFE = .opBnnn 0xFFE ∧
      4095 ≤ (0xFFE : Imm12).toNat + (s.reg 0).toNat :=
  ⟨⟨at200 0x1FFF, stepsFrom_of_live _ ⟨rfl, by decide, rfl⟩, by decide, by decide, by decide⟩,
   ⟨(at200 0xBFFE).setReg 0 1, stepsFrom_of_live _ ⟨rfl, by decide, rfl⟩, by decide, by decide, by decide⟩⟩

/-- CallPushesReturnAddress: SP = 15 and SP = 16. -/
theorem test_witness_call : (State.reset.setStack State.reset.stack 15).sp.val < 16 ∧
    (State.reset.setStack State.reset.stack 16).sp.val = 16 := by decide

/-- ReturnPopsToPc: SP = 1 and SP = 0. -/
theorem test_witness_ret : 0 < (State.reset.setStack State.reset.stack 1).sp.val ∧ State.reset.sp.val = 0 := by decide

/-- SkipsOnRegisters: the low nibble 1 in each family. -/
theorem test_witness_skip_low_nibble : ((0x5121 : Word) &&& 0xF000 = 0x5000 ∧ (0x5121 : Word) &&& 0x000F ≠ 0) ∧
    (0x912F : Word) &&& 0xF000 = 0x9000 ∧ (0x912F : Word) &&& 0x000F ≠ 0 := by decide

/-- CopyAndLogic: bit 7. AddWithCarry, SubtractBothWays, ShiftsInPlace, FlagAndResultAreExact: x = E, with sums 255 and 256
and equal and adjacent operands. -/
theorem test_witness_alu : (7 < 8) ∧ (0xE : Reg) ≠ Reg.VF ∧
    ¬ 255 < ((regs [(0xE, 0x7F), (1, 0x80)]).reg 0xE).toNat + ((regs [(0xE, 0x7F), (1, 0x80)]).reg 1).toNat ∧
    255 < ((regs [(0xE, 0x80), (1, 0x80)]).reg 0xE).toNat + ((regs [(0xE, 0x80), (1, 0x80)]).reg 1).toNat ∧
    ¬ ((regs [(0xE, 5), (1, 5)]).reg 1).toNat < ((regs [(0xE, 5), (1, 5)]).reg 0xE).toNat ∧
    ((regs [(0xE, 6), (1, 5)]).reg 1).toNat < ((regs [(0xE, 6), (1, 5)]).reg 0xE).toNat := by decide

/-- StoreDecimalDigits, DecimalDigitsGiveValue: I = 4093 and I = 4094. -/
theorem test_witness_bcd : (State.reset.setI 0x0FFD).i.toNat + 2 < 4096 ∧ 4096 ≤ (State.reset.setI 0x0FFE).i.toNat + 2 := by
  decide

/-- StoreRegisterBlock, LoadRegisterBlock, StoreThenLoadRestores: x = F with I + 15 = 4095 and 4096; a register up to x, and
one above x = E. -/
theorem test_witness_block : (State.reset.setI 0x0FF0).i.toNat + (0xF : Reg).val < 4096 ∧
    4096 ≤ (State.reset.setI 0x0FF1).i.toNat + (0xF : Reg).val ∧ (0xF : Reg) ≤ 0xF ∧ (0xE : Reg) < 0xF := by decide

/-- DrawTogglesCoveredPixels, AnchorWrapsBodyClips, DrawTwiceRestores: no rows anywhere, I + n − 1 = 4095, and 4096. -/
theorem test_witness_draw_bounds :
    (0 : Nibble).toNat = 0 ∧ (State.reset.setI 0x0FFC).i.toNat + (4 : Nibble).toNat - 1 < 4096 ∧
    1 ≤ (5 : Nibble).toNat ∧ 4096 ≤ (State.reset.setI 0x0FFC).i.toNat + (5 : Nibble).toNat - 1 := by decide

/-- The state of vector G4 and the sprite row C0. -/
def collidingState : State :=
  ((State.reset.setI 0x300).storeBytes 0x300 [0xC0]).setFb (flipPixel clearedFb 0 0)

/-- DrawTogglesCoveredPixels: a pixel that is on and covered, and the same sprite on a clear framebuffer. -/
theorem test_witness_draw_collision :
    (∃ py px, py < 32 ∧ px < 64 ∧ collidingState.pixel py px = true ∧
      SpriteCovers (collidingState.bytesAt 0x300 1) 0 0 py px) ∧
    ¬ ∃ py px, py < 32 ∧ px < 64 ∧ (collidingState.setFb clearedFb).pixel py px = true ∧
      SpriteCovers (collidingState.bytesAt 0x300 1) 0 0 py px := by
  refine ⟨⟨0, 0, by decide, by decide, by decide, 0, 0, 0xC0, by decide, by decide, by decide, rfl, rfl⟩, ?_⟩
  rintro ⟨py, px, hy, -, h, -⟩
  simp [State.pixel, pixelOf, State.setFb, clearedFb, hy] at h

/-- AnchorWrapsBodyClips: coordinates 0, 0 and 64, 32; and a pixel that a draw at (62, 31) changes. -/
theorem test_witness_wrap : ((regs [(0, 0x40), (1, 0x20)]).reg 0).toNat % 64 = (State.reset.reg 0).toNat % 64 ∧
    ((regs [(0, 0x40), (1, 0x20)]).reg 1).toNat % 32 = (State.reset.reg 1).toNat % 32 ∧
    (regs [(0, 0x40), (1, 0x20)]).i = State.reset.i ∧ (regs [(0, 0x40), (1, 0x20)]).mem = State.reset.mem ∧
    (regs [(0, 0x40), (1, 0x20)]).font = State.reset.font ∧
    (regs [(0, 0x40), (1, 0x20)]).fb = State.reset.fb ∧
    (ran (.opDxyn 0 1 1) (((regs [(0, 0x3E), (1, 0x1F)]).setI 0x300).storeBytes 0x300 [0xFF])).map (·.pixel 31 63) =
      some true := by decide

/-- DrawTwiceRestores: a clear framebuffer. -/
theorem test_witness_draw_clear : ∀ py px, State.reset.pixel py px = false := by
  intro py px
  by_cases h : py < 32 <;> simp [State.pixel, pixelOf, State.reset, State.resetWith, h]

/-- KeyTestsSkip: 15 and 16. -/
theorem test_witness_keys : ((regs [(2, 0x0F)]).reg 2).toNat = (15 : Fin 16).val ∧ 15 < ((regs [(2, 0x10)]).reg 2).toNat := by
  decide

/-- ReadDelayTimer, SetDelayTimerThenTick, SetSoundTimerThenTick, DrawMattersOnlyToRandom, RandomIsDrawAndMask (last
clause): live states at these instructions, with the value 1 that one
tick brings to 0 and the value 2 that it does not. -/
theorem test_witness_timer_steps :
    (∃ (s : State), s.StepsFrom s ∧ fetch s = some 0xF307 ∧ decode 0xF307 = .opFx07 3 ∧ s.dt = 1) ∧
    (∃ (s : State), s.StepsFrom s ∧ fetch s = some 0xF315 ∧ decode 0xF315 = .opFx15 3 ∧ (s.reg 3).toNat = 1) ∧
    ∃ (s : State), s.StepsFrom s ∧ fetch s = some 0xF318 ∧ decode 0xF318 = .opFx18 3 ∧ (s.reg 3).toNat = 2 ∧
      ∀ x kk, decode 0xF318 ≠ .opCxkk x kk :=
  ⟨⟨(at200 0xF307).setDt 1, stepsFrom_of_live _ ⟨rfl, by decide, rfl⟩, by decide, by decide, rfl⟩,
   ⟨(at200 0xF315).setReg 3 1, stepsFrom_of_live _ ⟨rfl, by decide, rfl⟩, by decide, by decide, by decide⟩,
   ⟨(at200 0xF318).setReg 3 2, stepsFrom_of_live _ ⟨rfl, by decide, rfl⟩, by decide, by decide, by decide,
    fun x kk h => by rw [show decode 0xF318 = .opFx18 3 by decide] at h; cases h⟩⟩

/-- WaitForKey: at Fx0A with no key latched, and with key 15. -/
theorem test_witness_wait :
    (∃ (s : State), s.StepsFrom s ∧ fetch s = some 0xF10A ∧ decode 0xF10A = .opFx0A 1 ∧ s.latch = none) ∧
    ∃ (s : State), s.StepsFrom s ∧ fetch s = some 0xF10A ∧ s.latch = some 15 :=
  ⟨⟨at200 0xF10A, stepsFrom_of_live _ ⟨rfl, by decide, rfl⟩, by decide, by decide, rfl⟩,
   ⟨(at200 0xF10A).setLatch (some 15), stepsFrom_of_live _ ⟨rfl, by decide, rfl⟩, by decide, rfl⟩⟩

/-- FetchReadsTwoBytesAtPc: PC = 4094 and PC = 4095. -/
theorem test_witness_fetch : (State.reset.setPc 0x0FFE).pc.toNat + 1 < 4096 ∧
    ∃ (s : State), s.StepsFrom s ∧ s.pc.toNat = 4095 ∧ 4096 ≤ s.pc.toNat + 1 :=
  ⟨by decide, State.reset.setPc 0x0FFF, stepsFrom_of_live _ ⟨rfl, by decide, rfl⟩, by decide, by decide⟩

/-- StepRunsDecodedInstruction: a live state at 8124, and one at a return on the empty stack, which faults. -/
theorem test_witness_step_runs :
    (∃ (s : State), s.StepsFrom s ∧ s.pc.toNat + 1 < 4096 ∧ (Instr.op8xy4 1 2).wellFormed = true ∧
      decodeBytes [s.byteAt s.pc.toNat, s.byteAt (s.pc.toNat + 1)] = .ok (.op8xy4 1 2, [])) ∧
    ∃ (s : State), s.StepsFrom s ∧ s.pc.toNat + 1 < 4096 ∧ decodeBytes [s.byteAt s.pc.toNat, s.byteAt (s.pc.toNat + 1)] = .ok (.op00EE, []) ∧
      (ran .op00EE s).map (·.fault) = some (some .stackUnderflow) :=
  ⟨⟨at200 0x8124, stepsFrom_of_live _ ⟨rfl, by decide, rfl⟩, by decide, rfl, by decide⟩,
   ⟨at200 0x00EE, stepsFrom_of_live _ ⟨rfl, by decide, rfl⟩, by decide, by decide, by decide⟩⟩

/-- A step that answers a state with a given fault field, from the computed answer. -/
theorem step_of_fault {s : State} {f : Option FaultKind} (h : (next s).map (·.fault) = some f) :
    ∃ t, step s = .next t ∧ t.fault = f := by
  unfold next at h
  split at h
  · rename_i t ht; exact ⟨t, ht, Option.some.inj h⟩
  · cases h

/-- WaitFlagIsWrittenByStep, TimersTickOncePerStep, FaultingStepChangesOnlyFault, OutOfProtocolIsRefused (last clause): a live
state whose step completes, and one whose step faults after a fetch. -/
theorem test_witness_step_completes_and_faults :
    (∃ s : State, s.StepsFrom s ∧ fetch s = some 0xF10A ∧ ∃ t, step s = .next t ∧ t.fault = none) ∧
    ∃ s : State, s.StepsFrom s ∧ fetch s = some 0x00EE ∧ ∃ t, step s = .next t ∧ t.fault = some .stackUnderflow :=
  ⟨⟨at200 0xF10A, stepsFrom_of_live _ ⟨rfl, by decide, rfl⟩, by decide, step_of_fault (by decide)⟩,
   ⟨at200 0x00EE, stepsFrom_of_live _ ⟨rfl, by decide, rfl⟩, by decide, step_of_fault (by decide)⟩⟩

/-- InstructionsWriteOnlyTheirParts: an instruction that completes and one that faults. -/
theorem test_witness_frames : (ran .op00E0 State.reset).isSome = true ∧ (ran .op00EE State.reset).isSome = true := by decide

/-- A STEP(r) scheduled on a live core starts from the core with the schedule behind it and the draw named. -/
theorem scheduled_of_live {s : State} (h : s.Live) (r : Byte) (ops : List HostOp) :
    (s.setHostOps (.step r :: ops)).StepsFrom ((s.setHostOps ops).setRnd (some r)) :=
  ⟨h.2.1, h.2.2, Or.inr ⟨r, ops, rfl, rfl⟩⟩

/-- The same statements and every other one over `StepsFrom`: a scheduled STEP that completes, waits, faults after its fetch and
faults at its fetch. -/
theorem test_witness_scheduled_steps :
    (∃ s u : State, s.StepsFrom u ∧ s.hostOps ≠ [] ∧ fetch s = some 0xF307 ∧ ∃ t, step s = .next t ∧ t.fault = none) ∧
    (∃ s u : State, s.StepsFrom u ∧ s.hostOps ≠ [] ∧ fetch s = some 0xF10A ∧ ∃ t, step s = .next t ∧ t.fault = none) ∧
    (∃ s u : State, s.StepsFrom u ∧ s.hostOps ≠ [] ∧ fetch s = some 0x00EE ∧
      ∃ t, step s = .next t ∧ t.fault = some .stackUnderflow) ∧
    ∃ s u : State, s.StepsFrom u ∧ s.hostOps ≠ [] ∧ 4096 ≤ s.pc.toNat + 1 :=
  ⟨⟨_, _, scheduled_of_live (s := at200 0xF307) ⟨rfl, by decide, rfl⟩ 0xA7 [], by decide, by decide, step_of_fault (by decide)⟩,
   ⟨_, _, scheduled_of_live (s := at200 0xF10A) ⟨rfl, by decide, rfl⟩ 0xA7 [], by decide, by decide, step_of_fault (by decide)⟩,
   ⟨_, _, scheduled_of_live (s := at200 0x00EE) ⟨rfl, by decide, rfl⟩ 0xA7 [], by decide, by decide, step_of_fault (by decide)⟩,
   ⟨_, _, scheduled_of_live (s := State.reset.setPc 0x0FFF) ⟨rfl, by decide, rfl⟩ 0xA7 [], by decide, by decide⟩⟩

/-- DrawMattersOnlyToRandom: the same STEP scheduled with two draws. -/
theorem test_witness_two_draws : ∃ s u s' u' : State, s.StepsFrom u ∧ s'.StepsFrom u' ∧ u.rnd ≠ u'.rnd ∧
    u' = { u with rnd := u'.rnd, draws := u'.draws } ∧ fetch s = some 0xF307 :=
  ⟨_, _, _, _, scheduled_of_live (s := at200 0xF307) ⟨rfl, by decide, rfl⟩ 0xA7 [],
   scheduled_of_live (s := at200 0xF307) ⟨rfl, by decide, rfl⟩ 0x5C [], by decide, rfl, by decide⟩

/-- A spent schedule: a fault keeps the draw that the host named (FaultingStepChangesOnlyFault). -/
theorem test_scheduled_fault : next ((at200 0x00EE).setHostOps [.step 0xA7]) =
    some (((at200 0x00EE).setRnd (some 0xA7)).setFault .stackUnderflow) := by decide

/-- CallThenReturnComesBack: 2300 at 0x200 with SP = 15, and 00EE at 0x300. -/
theorem test_witness_call_return : ∃ (s : State), s.StepsFrom s ∧ s.sp.val < 16 ∧ s.pc.toNat + 1 < 4096 ∧ (0x300 : Imm12).toNat + 1 < 4096 ∧
    decode (opcodeOfBytes (s.byteAt s.pc.toNat) (s.byteAt (s.pc.toNat + 1))) = .op2nnn 0x300 ∧
    decode (opcodeOfBytes (s.byteAt (0x300 : Imm12).toNat) (s.byteAt ((0x300 : Imm12).toNat + 1))) = .op00EE :=
  ⟨((at200 0x2300).storeBytes 0x300 [0x00, 0xEE]).setStack State.reset.stack 15, stepsFrom_of_live _ ⟨rfl, by decide, rfl⟩,
   by decide, by decide, by decide, by decide, by decide⟩

/-- InstructionsRaiseExactlyTheirFault: no fault before, and each of the three faults an instruction can raise. -/
theorem test_witness_faults : State.reset.fault = none ∧ faultOf .op00EE State.reset = some .stackUnderflow ∧
    faultOf (.opFx65 0xF) (State.reset.setI 0x0FF1) = some .outOfBounds ∧ faultOf (.opFx65 0xF) (State.reset.setI 0x0FF0) = none ∧
    faultOf (.opEx9E 2) (regs [(2, 0x10)]) = some .invalidKey ∧ faultOf (.opEx9E 2) (regs [(2, 0x0F)]) = none := by decide

/-- FaultedCoreIsFrozen: nothing scheduled, a STEP scheduled, a RESET scheduled. -/
theorem test_witness_frozen :
    (∃ (s : State) (k : FaultKind), s.fault = some k ∧ s.phase ≠ .beforeReset ∧ s.hostOps = []) ∧
    (∃ (s : State) (k : FaultKind) (op : HostOp) (ops : List HostOp), s.fault = some k ∧ s.phase ≠ .beforeReset ∧ s.hostOps = op :: ops ∧ op ≠ .reset) ∧
    ∃ (s : State) (k : FaultKind) (ops : List HostOp), s.fault = some k ∧ s.phase ≠ .beforeReset ∧ s.hostOps = .reset :: ops :=
  ⟨⟨State.reset.setFault .stackOverflow, _, rfl, by decide, rfl⟩,
   ⟨(hosted [.step 0x5C]).setFault .stackOverflow, _, _, _, rfl, by decide, rfl, by decide⟩,
   ⟨(hosted [.reset]).setFault .stackOverflow, _, _, rfl, by decide, rfl⟩⟩

/-- ResetContents: the addresses around the font and its last byte. ResetOperationRestoresAll: a RESET scheduled before any
other operation. -/
theorem test_witness_reset : (0x04F < 0x050 ∨ 0x0A0 ≤ 0x04F) ∧ (0x0A0 < 0x050 ∨ 0x0A0 ≤ 0x0A0) ∧ 79 < 80 ∧
    ((hosted [.reset]).setPhase .beforeReset).hostOps = [.reset] := by decide

/-- LoadCopiesRom: 3584 bytes and 3585 bytes (E10). -/
theorem test_witness_load :
    (∃ (s : State) (bytes : List Byte) (ops : List HostOp), s.hostOps = .load bytes :: ops ∧ s.phase = .afterReset ∧ s.fault = none ∧ bytes.length = 3584 ∧
      bytes.length ≤ 3584) ∧
    ∃ (s : State) (bytes : List Byte) (ops : List HostOp), s.hostOps = .load bytes :: ops ∧ s.phase = .afterReset ∧ s.fault = none ∧ 3584 < bytes.length :=
  ⟨⟨hosted [.load (List.replicate 3584 0xAB)], _, [], rfl, rfl, rfl, List.length_replicate, by
      rw [List.length_replicate]⟩,
   ⟨hosted [.load (List.replicate 3585 0xAB)], _, [], rfl, rfl, rfl, by rw [List.length_replicate]; decide⟩⟩

/-- KeyEventsMoveFlagAndLatch: key 15 down; key 15 up when latched and when another is; key 16. -/
theorem test_witness_key_events :
    (∃ (s : State) (ops : List HostOp), s.hostOps = .keyDown (15 : Fin 16).val :: ops ∧ s.phase ≠ .beforeReset ∧ s.fault = none) ∧
    (∃ (s : State) (ops : List HostOp), s.hostOps = .keyUp (15 : Fin 16).val :: ops ∧ s.phase ≠ .beforeReset ∧ s.fault = none ∧ s.latch = some 15) ∧
    (∃ (s : State) (ops : List HostOp), s.hostOps = .keyUp (15 : Fin 16).val :: ops ∧ s.phase ≠ .beforeReset ∧ s.fault = none ∧ s.latch ≠ some 15) ∧
    ∃ (s : State) (ops : List HostOp), 15 < 16 ∧ s.hostOps = .keyDown 16 :: ops ∧ s.phase ≠ .beforeReset ∧ s.fault = none :=
  ⟨⟨hosted [.keyDown 15], _, rfl, by decide, rfl⟩, ⟨(hosted [.keyUp 15]).setLatch (some 15), _, rfl, by decide, rfl, rfl⟩,
   ⟨(hosted [.keyUp 15]).setLatch (some 14), _, rfl, by decide, rfl, by decide⟩,
   ⟨hosted [.keyDown 16], _, by decide, rfl, by decide, rfl⟩⟩

/-- StepTakesItsDraw: at C30F with a STEP(0xA7) scheduled, and with nothing scheduled. -/
theorem test_witness_draws :
    (∃ (s : State) (ops : List HostOp), s.hostOps = .step 0xA7 :: ops ∧ s.phase ≠ .beforeReset ∧ s.fault = none ∧ fetch s = some 0xC30F ∧
      decode 0xC30F = .opCxkk 3 0x0F) ∧
    ∃ (s : State), s.Live ∧ s.rnd = none ∧ fetch s = some 0xC30F :=
  ⟨⟨(at200 0xC30F).setHostOps [.step 0xA7], _, rfl, by decide, rfl, by decide, by decide⟩,
   ⟨at200 0xC30F, ⟨rfl, by decide, rfl⟩, rfl, by decide⟩⟩

/-- OutOfProtocolIsRefused: before the first RESET, with nothing and with a LOAD scheduled; a second LOAD, and a LOAD after a
STEP; a LOAD that completes. -/
theorem test_witness_protocol :
    (∃ (s : State), s.hostOps = [] ∧ s.phase = .beforeReset) ∧
    (∃ (s : State) (op : HostOp) (ops : List HostOp), s.hostOps = op :: ops ∧ op ≠ .reset ∧ s.phase = .beforeReset) ∧
    (∃ (s : State) (bytes : List Byte) (ops : List HostOp), s.hostOps = .load bytes :: ops ∧ s.fault = none ∧ s.phase = .loaded) ∧
    (∃ (s : State) (bytes : List Byte) (ops : List HostOp), s.hostOps = .load bytes :: ops ∧ s.fault = none ∧ s.phase = .stepping) ∧
    ∃ (s : State) (bytes : List Byte) (ops : List HostOp), s.hostOps = .load bytes :: ops ∧
      ∃ t, step s = .next t ∧ t.fault = none :=
  ⟨⟨State.reset.setPhase .beforeReset, rfl, rfl⟩,
   ⟨(hosted [.load []]).setPhase .beforeReset, _, _, rfl, by decide, rfl⟩,
   ⟨(hosted [.load []]).setPhase .loaded, _, _, rfl, rfl, rfl⟩,
   ⟨(hosted [.load []]).setPhase .stepping, _, _, rfl, rfl, rfl⟩,
   ⟨hosted [.load [0x12]], _, _, rfl, step_of_fault (by decide)⟩⟩

/-- OutputsShowTheState: the last pixel; two states with one fault output. -/
theorem test_witness_outputs : 31 < 32 ∧ 63 < 64 ∧
    (State.reset.setFault .invalidKey).faultOut = 6 ∧ (State.reset.setFault .outOfBounds).faultOut = 1 ∧
    (State.reset.setFault .invalidKey).faultOut = ((at200 0x00EE).setFault .invalidKey).faultOut := by decide

/-- A state that is not the reset state: waiting at Fx0A, with one live return address of 0x1000 and memory listed. -/
def waitingState : State :=
  { (at200 0xF10A).setStack (State.reset.stack.set 0 0x1000) 1 with wait := true, phase := .stepping }

/-- StepKeepsWellFormed, StepKeepsCanonicalMemory. -/
theorem test_witness_well_formed : waitingState.WellFormed ∧ waitingState.mem ≠ [] ∧
    ∃ t, step waitingState = .next t ∧ t.fault = none :=
  ⟨⟨by decide, by decide,
    fun k hk => by
      have h : k = 0 := Fin.ext (Nat.lt_one_iff.mp hk)
      subst h; decide,
    fun _ => ⟨rfl, 0xF10A, 1, by decide, by decide⟩⟩,
   by decide, step_of_fault (by decide)⟩

end Sys2Proof.Tests
end

section
/-! Proofs about the state after RESET (10_state R23, 70_reset_and_hazards R301). -/

namespace Sys2Proof.Machine

@[simp] theorem State.resetWith_reg (font : Font) (r : Reg) : (State.resetWith font).reg r = 0 :=
  Vector.getElem_replicate r.isLt

/-- From the entry point the fetch is in range, so it reads the word at 0x200 of whatever memory stands there (R121, R301). -/
theorem fetch_resetWith_setMem (font : Font) (m : List Host.Cell) :
    fetch ((State.resetWith font).setMem m) =
      some (opcodeOfBytes (Memory.read font m 0x200) (Memory.read font m 0x201)) := by
  have inRange : (0x0200 : Word).toNat + 1 < 4096 := by decide
  exact fetch_of_le ((State.resetWith font).setMem m) inRange

/-- Settles O43: the registers by the zero vector, the entry fetch by `fetch_resetWith_setMem`, the other fields by definition. -/
theorem resetEntryPoint : Obligations.ResetEntryPoint := fun font =>
  ⟨State.resetWith_reg font, rfl, rfl, rfl, rfl, fetch_resetWith_setMem font⟩

end Sys2Proof.Machine
end

section
/-! Proofs about the decoder and the opcode map (30_encoding R93 to R95, R103). -/

namespace Sys2Proof

/-! ### The opcode map by fields (R94)

Apart from the two words of family 0, a row of the map fixes the family alone, the family and the low nibble, or the family
and the low byte. The lists below hold what those rows fix; `opcodeMap_cases` and the three membership lemmas after it say
that they give the rows of the map. -/

/-- The families of one instruction each, which the top nibble selects alone. -/
def familyCodes : List Nibble := [0x1, 0x2, 0x3, 0x4, 0x6, 0x7, 0xA, 0xB, 0xC, 0xD]

/-- Family and low nibble of the instructions that these two select. -/
def lowNibbleCodes : List (Nibble × Nibble) :=
  [(0x5, 0x0), (0x9, 0x0)] ++ [0x0, 0x1, 0x2, 0x3, 0x4, 0x5, 0x6, 0x7, 0xE].map (fun n => (0x8, n))

/-- Family and low byte of the instructions that these two select. -/
def lowByteCodes : List (Nibble × Byte) :=
  [0x9E, 0xA1].map (fun k => (0xE, k)) ++
    [0x07, 0x0A, 0x15, 0x18, 0x1E, 0x29, 0x33, 0x55, 0x65].map (fun k => (0xF, k))

theorem opcodeMap_cases : ∀ r ∈ opcodeMap,
    r = ⟨0xFFFF, 0x00E0⟩ ∨ r = ⟨0xFFFF, 0x00EE⟩ ∨
    (∃ f ∈ familyCodes, r = ⟨0xF000, wordOfNibbles f 0 0 0⟩) ∨
    (∃ c ∈ lowNibbleCodes, r = ⟨0xF00F, wordOfNibbles c.1 0 0 c.2⟩) ∨
    ∃ c ∈ lowByteCodes, r = ⟨0xF0FF, wordOfXkk c.1 0 c.2⟩ := by
  decide

theorem familyCode_row_mem : ∀ f ∈ familyCodes, ⟨0xF000, wordOfNibbles f 0 0 0⟩ ∈ opcodeMap := by
  decide

theorem lowNibbleCode_row_mem : ∀ c ∈ lowNibbleCodes, ⟨0xF00F, wordOfNibbles c.1 0 0 c.2⟩ ∈ opcodeMap := by
  simp [lowNibbleCodes, opcodeMap, wordOfNibbles]

theorem lowByteCode_row_mem : ∀ c ∈ lowByteCodes, ⟨0xF0FF, wordOfXkk c.1 0 c.2⟩ ∈ opcodeMap := by
  simp [lowByteCodes, opcodeMap, wordOfXkk]

/-- A family is selected by the top nibble alone, or it is one of the six that look further into the word (R95). -/
theorem family_cases (f : Nibble) :
    f ∈ familyCodes ∨ f = 0x0 ∨ f = 0x5 ∨ f = 0x8 ∨ f = 0x9 ∨ f = 0xE ∨ f = 0xF := by
  revert f; decide

section Families

variable {op : Word}

/-! ### The decoder, family by family -/

theorem decode_of_family0 (hf : opF op = 0x0) : decode op = decodeFamily0 op := by simp [decode, hf]

theorem decode_of_family5 (hf : opF op = 0x5) :
    decode op = if opN op = 0x0 then .op5xy0 (opX op) (opY op) else .nop op := by simp [decode, hf]

theorem decode_of_family8 (hf : opF op = 0x8) : decode op = decodeFamily8 op := by simp [decode, hf]

theorem decode_of_family9 (hf : opF op = 0x9) :
    decode op = if opN op = 0x0 then .op9xy0 (opX op) (opY op) else .nop op := by simp [decode, hf]

theorem decode_of_familyE (hf : opF op = 0xE) : decode op = decodeFamilyE op := by simp [decode, hf]

theorem decode_of_familyF (hf : opF op = 0xF) : decode op = decodeFamilyF op := by simp [decode, hf]

/-! ### A word that has a row's fields decodes to that row -/

theorem rowOf_decode_of_familyCode (hf : opF op ∈ familyCodes) :
    rowOf (decode op) = ⟨0xF000, wordOfNibbles (opF op) 0 0 0⟩ := by
  generalize h : opF op = f at hf
  fin_cases hf <;> simp [decode, h, rowOf, wordOfNibbles]

theorem rowOf_decode_of_lowNibbleCode (hc : (opF op, opN op) ∈ lowNibbleCodes) :
    rowOf (decode op) = ⟨0xF00F, wordOfNibbles (opF op) 0 0 (opN op)⟩ := by
  generalize hf : opF op = f at hc
  generalize hn : opN op = n at hc
  rcases List.mem_append.mp hc with h59 | h8
  · fin_cases h59
    · simp [decode_of_family5 hf, hn, rowOf, wordOfNibbles]
    · simp [decode_of_family9 hf, hn, rowOf, wordOfNibbles]
  · fin_cases h8 <;> simp [decode_of_family8 hf, decodeFamily8, hn, rowOf, wordOfNibbles]

theorem rowOf_decode_of_lowByteCode (hc : (opF op, opKk op) ∈ lowByteCodes) :
    rowOf (decode op) = ⟨0xF0FF, wordOfXkk (opF op) 0 (opKk op)⟩ := by
  generalize hf : opF op = f at hc
  generalize hk : opKk op = k at hc
  rcases List.mem_append.mp hc with hE | hF
  · fin_cases hE <;> simp [decode_of_familyE hf, decodeFamilyE, hk, rowOf, wordOfXkk]
  · fin_cases hF <;> simp [decode_of_familyF hf, decodeFamilyF, hk, rowOf, wordOfXkk]

theorem rowOf_decode_of_match {r : OpcodeRow} (hr : r ∈ opcodeMap) (h : op &&& r.mask = r.value) :
    rowOf (decode op) = r := by
  obtain rfl | rfl | ⟨f, hf, rfl⟩ | ⟨⟨f, n⟩, hc, rfl⟩ | ⟨⟨f, k⟩, hc, rfl⟩ := opcodeMap_cases r hr
  · rw [(and_FFFF op).symm.trans h]; rfl
  · rw [(and_FFFF op).symm.trans h]; rfl
  · obtain rfl := (and_F000_eq op f).mp h
    exact rowOf_decode_of_familyCode hf
  · obtain ⟨rfl, rfl⟩ := (and_F00F_eq op f n).mp h
    exact rowOf_decode_of_lowNibbleCode hc
  · obtain ⟨rfl, rfl⟩ := (and_F0FF_eq op f k).mp h
    exact rowOf_decode_of_lowByteCode hc

/-! ### A word that has no row's fields decodes to the no-operation -/

theorem decode_of_no_codes (hE0 : op ≠ 0x00E0) (hEE : op ≠ 0x00EE) (hf : opF op ∉ familyCodes)
    (hn : (opF op, opN op) ∉ lowNibbleCodes) (hk : (opF op, opKk op) ∉ lowByteCodes) : decode op = .nop op := by
  obtain h | h | h | h | h | h | h := family_cases (opF op)
  · exact absurd h hf
  · rw [decode_of_family0 h, decodeFamily0, if_neg hE0, if_neg hEE]
  · simp_all [decode_of_family5 h, lowNibbleCodes]
  · simp_all [decode_of_family8 h, decodeFamily8, lowNibbleCodes]
  · simp_all [decode_of_family9 h, lowNibbleCodes]
  · simp_all [decode_of_familyE h, decodeFamilyE, lowByteCodes]
  · simp_all [decode_of_familyF h, decodeFamilyF, lowByteCodes]

theorem decode_of_no_match (h : ∀ r ∈ opcodeMap, op &&& r.mask ≠ r.value) : decode op = .nop op := by
  apply decode_of_no_codes
  · rintro rfl; exact h ⟨0xFFFF, 0x00E0⟩ (by decide) (by decide)
  · rintro rfl; exact h ⟨0xFFFF, 0x00EE⟩ (by decide) (by decide)
  · exact fun hf => h _ (familyCode_row_mem _ hf) ((and_F000_eq op _).mpr rfl)
  · exact fun hn => h _ (lowNibbleCode_row_mem _ hn) ((and_F00F_eq op _ _).mpr ⟨rfl, rfl⟩)
  · exact fun hk => h _ (lowByteCode_row_mem _ hk) ((and_F0FF_eq op _ _).mpr ⟨rfl, rfl⟩)

end Families

/-- Settles O3: each clause by the lemma about the decoder; no word matches two rows, because both are the row of the one
instruction it decodes to. -/
theorem decoderFollowsOpcodeMap : Obligations.DecoderFollowsOpcodeMap :=
  ⟨rfl, fun _ _ => rowOf_decode_of_match, fun _ => decode_of_no_match,
    fun _ _ _ hr hr' h h' => (rowOf_decode_of_match hr h).symm.trans (rowOf_decode_of_match hr' h')⟩

end Sys2Proof
end

section
/-! Proofs about the whole STEP (40_step_cycle R127, R129): what a completed STEP leaves, and who writes WAIT. -/

namespace Sys2Proof.Machine

/-! ### Frames -/

/-- What two updates in a row change is what either of them changes. -/
theorem OnlyChanges.trans {c d : StatePart → Prop} {s t u : State} (hst : OnlyChanges c s t) (htu : OnlyChanges d t u) :
    OnlyChanges (fun p => c p ∨ d p) s u := by
  intro p hp
  have st : p.Same s t := hst p fun h => hp (Or.inl h)
  have tu : p.Same t u := htu p fun h => hp (Or.inr h)
  cases p <;> exact Eq.trans tu st

theorem onlyChanges_setPc (s : State) (a : Word) : OnlyChanges (fun p => p = .pc) s (s.setPc a) := by
  intro p hp
  cases p
  case pc => exact absurd rfl hp
  all_goals rfl

theorem onlyChanges_endOfStep (w : Bool) (s : State) :
    OnlyChanges (fun p => p = .wait ∨ p = .dt ∨ p = .st ∨ p = .phase ∨ p = .rnd) s (endOfStep w s) := by
  intro p hp
  cases p
  case wait | dt | st | phase | rnd => simp at hp
  all_goals rfl

/-! ### The end of a completed STEP -/

/-- A tick lowers a timer by one and stops at 0 (R40). -/
theorem tick_toNat (b : Byte) : (tick b).toNat = b.toNat - 1 := by
  unfold tick
  split <;> bv_omega

theorem waitAfter_eq_true_iff {i : Instr} {s : State} :
    waitAfter i s = true ↔ s.latch = none ∧ ∃ x, i = .opFx0A x := by
  cases i <;> simp [waitAfter]

/-- A STEP whose instruction raises no fault completes with WAIT and the ticks after the execute phase (R130). -/
theorem step_of_completes {s u v : State} {op : Word} (h : s.StepsFrom u) (hop : fetch s = some op)
    (hv : exec (decode op) u = .next v) (hf : v.fault = none) :
    step s = .next (endOfStep (waitAfter (decode op) u) v) := by
  rw [step_of_stepsFrom s h, coreStep_of_fetch_some u (stepsFrom_fault s h) ((stepsFrom_fetch s h).trans hop),
    ← finish_of_none u hf]
  simp [runOpcode, hv]

/-! ### The no-operation (R127) -/

theorem decode_of_not_matchesPattern {op : Word} (h : matchesPattern op = false) : decode op = .nop op :=
  decode_of_no_match fun r hr => by simpa [OpcodeRow.matches] using List.any_eq_false.mp h r hr

theorem exec_nop (op : Word) (s : State) : exec (.nop op) s = .next (s.setPc (s.pc + 2)) := rfl

/-- Settles O5: an unmatched word runs as `exec_nop`, and its STEP adds `endOfStep`; the frame is that of the two in a row. -/
theorem noOperationOnlyAdvances : Obligations.NoOperationOnlyAdvances := by
  refine ⟨fun _ => decode_of_not_matchesPattern,
    fun op s => ⟨_, exec_nop op s, rfl, onlyChanges_setPc s _⟩, fun op s u hu hop hm => ?_⟩
  have hd := decode_of_not_matchesPattern hm
  have hfault : u.fault = none := stepsFrom_fault s hu
  have hexec : exec (decode op) u = .next (u.setPc (u.pc + 2)) := by rw [hd, exec_nop]
  have hstep : step s = .next (endOfStep false (u.setPc (u.pc + 2))) := by
    simpa [hd, waitAfter] using step_of_completes hu hop hexec hfault
  have hus := stepsFrom_eq s hu
  refine ⟨_, hstep, ?_, rfl, ?_, ?_, (onlyChanges_setPc u _).trans (onlyChanges_endOfStep false _)⟩
  · rw [hus]; rfl
  · rw [hus]; exact tick_toNat s.dt
  · rw [hus]; exact tick_toNat s.st

/-! ### The waiting flag (R129) -/

theorem State.push_wait {s t : State} {a : Word} (h : s.push a = some t) : t.wait = s.wait := by
  by_cases hsp : s.sp.val < 16
  · rw [State.push_of_lt s a hsp] at h; cases h; rfl
  · rw [State.push_of_full s a hsp] at h; cases h

theorem State.pop_wait {s t : State} {a : Word} (h : s.pop = some (a, t)) : t.wait = s.wait := by
  by_cases hsp : 0 < s.sp.val
  · rw [State.pop_of_pos s hsp] at h; cases h; rfl
  · rw [State.pop_of_empty s hsp] at h; cases h

/-- An instruction that checks its addresses first keeps WAIT if its writes do. -/
theorem guarded_wait {c : Prop} [Decidable c] {k : FaultKind} {s t u : State} (hu : u.wait = s.wait)
    (h : (if c then raise k s else .next u) = .next t) : t.wait = s.wait := by
  split at h <;> cases h
  · rfl
  · exact hu

/-- No execute phase writes WAIT: neither the fault an instruction raises nor its writes touch it. -/
theorem exec_wait {i : Instr} {s t : State} (h : exec i s = .next t) : t.wait = s.wait := by
  cases i
  case op00EE =>
    simp only [exec, exec00EE] at h
    split at h <;> cases h
    · rfl
    · exact (State.setPc_wait _ _).trans (State.pop_wait ‹_›)
  case op2nnn =>
    simp only [exec, exec2nnn] at h
    split at h <;> cases h
    · rfl
    · exact (State.setPc_wait _ _).trans (State.push_wait ‹_›)
  case opEx9E => simp only [exec, execEx9E] at h; split at h <;> cases h <;> rfl
  case opExA1 => simp only [exec, execExA1] at h; split at h <;> cases h <;> rfl
  case opFx0A => simp only [exec, execFx0A] at h; split at h <;> cases h <;> rfl
  case opDxyn | opFx33 | opFx55 | opFx65 => exact guarded_wait (by rfl) h
  all_goals exact Host.Outcome.next.inj h ▸ rfl

/-- Settles O35: `exec` leaves WAIT, so it is as before the STEP after a fault, and what `waitAfter` says after a completion. -/
theorem waitFlagIsWrittenByStep : Obligations.WaitFlagIsWrittenByStep := by
  intro s u t hu ht
  have hwait : u.wait = s.wait := by rw [stepsFrom_eq s hu]
  have hlatch : u.latch = s.latch := by rw [stepsFrom_eq s hu]
  rw [step_of_stepsFrom s hu] at ht
  obtain ⟨⟨k, hk⟩, -⟩ | ⟨-, -, rfl⟩ | ⟨-, op, v, hop, hv, rfl⟩ := coreStep_cases u ht
  · simp [stepsFrom_fault s hu] at hk
  · exact ⟨nofun, fun _ => hwait⟩
  · rw [stepsFrom_fetch s hu] at hop
    cases hf : v.fault with
    | some k =>
      rw [finish_of_some u hf]
      exact ⟨by simp [hf], fun _ => (exec_wait hv).trans hwait⟩
    | none =>
      rw [finish_of_none u hf]
      exact ⟨fun _ => by simp [waitAfter_eq_true_iff, hlatch, hop], by simp [hf]⟩

end Sys2Proof.Machine
end

section
/-! Proofs about encodings: the words of an instruction are the words of its row of the opcode map (30_encoding R93, R94). -/

namespace Sys2Proof

/-! ### Words and rows -/

theorem rowOf_nop_notMem (op : Word) : rowOf (.nop op) ∉ opcodeMap := by
  simp [rowOf, opcodeMap]

/-- A word matches a row of the opcode map exactly when the instruction it decodes to is of that row. -/
theorem match_iff_rowOf_decode {r : OpcodeRow} (hr : r ∈ opcodeMap) (op : Word) :
    op &&& r.mask = r.value ↔ rowOf (decode op) = r := by
  refine ⟨rowOf_decode_of_match hr, fun h => ?_⟩
  by_contra hne
  have noRow : ∀ r' ∈ opcodeMap, op &&& r'.mask ≠ r'.value := fun r' hr' h' => by
    obtain rfl : r' = r := (rowOf_decode_of_match hr' h').symm.trans h
    exact hne h'
  rw [decode_of_no_match noRow] at h
  exact rowOf_nop_notMem op (h ▸ hr)

theorem and_000F (op : Word) : op &&& 0x000F = wordOfNibbles 0 0 0 (opN op) := by
  conv_lhs => rw [← wordOfNibbles_fields op, show (0x000F : Word) = wordOfNibbles 0 0 0 (BitVec.allOnes 4) by decide,
    and_wordOfNibbles]
  simp only [BitVec.and_allOnes, and_nibble_zero]

theorem opN_ne_zero_of_and_000F {op : Word} (h : op &&& 0x000F ≠ 0) : opN op ≠ 0 := fun h0 =>
  h (by rw [and_000F, h0]; rfl)

namespace Machine

/-! ### Encodings of an instruction form, by the kind of its row -/

/-- A form all of whose instructions are of one row is encoded by that row if its words decode to the form. -/
theorem encodedBy_of_row {r : OpcodeRow} {f : Word → Instr} (hr : r ∈ opcodeMap) (hrow : ∀ op, rowOf (f op) = r)
    (hdec : ∀ op, op &&& r.mask = r.value → decode op = f op) : EncodedBy r.mask r.value f := fun op =>
  ⟨hdec op, fun h => (match_iff_rowOf_decode hr op).mpr (h ▸ hrow op)⟩

theorem encodedBy_family {f : Word → Instr} (g : Nibble) (hg : g ∈ familyCodes)
    (hrow : ∀ op, rowOf (f op) = ⟨0xF000, wordOfNibbles g 0 0 0⟩) (hdec : ∀ op, opF op = g → decode op = f op) :
    EncodedBy 0xF000 (wordOfNibbles g 0 0 0) f :=
  encodedBy_of_row (familyCode_row_mem g hg) hrow fun op h => hdec op ((and_F000_eq op g).mp h)

theorem encodedBy_lowNibble {f : Word → Instr} (g n : Nibble) (hc : (g, n) ∈ lowNibbleCodes)
    (hrow : ∀ op, rowOf (f op) = ⟨0xF00F, wordOfNibbles g 0 0 n⟩)
    (hdec : ∀ op, opF op = g → opN op = n → decode op = f op) : EncodedBy 0xF00F (wordOfNibbles g 0 0 n) f :=
  encodedBy_of_row (lowNibbleCode_row_mem (g, n) hc) hrow fun op h =>
    have ⟨hf, hn⟩ := (and_F00F_eq op g n).mp h
    hdec op hf hn

end Machine

end Sys2Proof
end

section
/-! Proofs about the control transfers (41_control_flow R140 to R150). -/

namespace Sys2Proof.Machine

/-! ### Frames -/

theorem OnlyChanges.mono {c d : StatePart → Prop} {s t : State} (h : OnlyChanges c s t) (hcd : ∀ p, c p → d p) :
    OnlyChanges d s t := fun p hp => h p (mt (hcd p) hp)

theorem onlyChanges_setStack_push (s : State) (h : s.sp.val < 16) (a : Word) (sp : Fin 17) :
    OnlyChanges (fun p => p = .sp ∨ p = .slot ⟨s.sp.val, h⟩) s (s.setStack (s.stack.set s.sp.val a) sp) := by
  intro p hp
  cases p
  case sp => simp at hp
  case slot k =>
    have hk : s.sp.val ≠ k.val := fun e => hp (Or.inr (congrArg _ (Fin.ext e.symm)))
    exact Vector.getElem_set_ne h k.isLt hk
  all_goals rfl

theorem onlyChanges_setStack_sp (s : State) (sp : Fin 17) : OnlyChanges (fun p => p = .sp) s (s.setStack s.stack sp) := by
  intro p hp
  cases p
  case sp => exact absurd rfl hp
  all_goals rfl

/-! ### Call and return (R142, R144) -/

theorem exec_op2nnn_of_lt (nnn : Imm12) (s : State) (h : s.sp.val < 16) :
    exec (.op2nnn nnn) s =
      .next ((s.setStack (s.stack.set s.sp.val s.pcn) ⟨s.sp.val + 1, by omega⟩).setPc (addressOf nnn)) := by
  simp only [exec, exec2nnn, State.push_of_lt s s.pcn h]

theorem exec_op2nnn_of_full (nnn : Imm12) (s : State) (h : ¬ s.sp.val < 16) :
    exec (.op2nnn nnn) s = .next (s.setFault .stackOverflow) := by
  simp only [exec, exec2nnn, State.push_of_full s s.pcn h, raise]

theorem exec_op00EE_of_pos (s : State) (h : 0 < s.sp.val) :
    exec .op00EE s = .next ((s.setStack s.stack ⟨s.sp.val - 1, by omega⟩).setPc s.stack[s.sp.val - 1]) := by
  simp only [exec, exec00EE, State.pop_of_pos s h]

theorem exec_op00EE_of_empty (s : State) (h : ¬ 0 < s.sp.val) : exec .op00EE s = .next (s.setFault .stackUnderflow) := by
  simp only [exec, exec00EE, State.pop_of_empty s h, raise]

theorem addressOf_toNat (nnn : Imm12) : (addressOf nnn).toNat = nnn.toNat := by
  simp only [addressOf, BitVec.toNat_setWidth]; omega

/-- Settles O6: the call is a push, which writes one slot and SP, and then a write of PC; a full stack gives no push. -/
theorem callPushesReturnAddress : Obligations.CallPushesReturnAddress := by
  refine ⟨encodedBy_family 0x2 (by decide) (fun _ => rfl) fun op h => by simp [decode, h], fun nnn s h => ?_,
    fun nnn s h => exec_op2nnn_of_full nnn s (by omega)⟩
  have frame := (onlyChanges_setStack_push s h s.pcn ⟨s.sp.val + 1, by omega⟩).trans (onlyChanges_setPc _ (addressOf nnn))
  exact ⟨_, exec_op2nnn_of_lt nnn s h, addressOf_toNat nnn, Vector.getElem_set_self h, rfl, frame.mono fun _ => Or.symm⟩

/-- Settles O7: the return is a pop, which writes SP and no slot, and then a write of PC; an empty stack gives no pop. -/
theorem returnPopsToPc : Obligations.ReturnPopsToPc := by
  refine ⟨encodedBy_of_row (r := ⟨0xFFFF, 0x00EE⟩) (by decide) (fun _ => rfl) fun op h => ?_, fun s h => ?_,
    fun s h => exec_op00EE_of_empty s (by omega)⟩
  · rw [(and_FFFF op).symm.trans h]; rfl
  · have frame := (onlyChanges_setStack_sp s ⟨s.sp.val - 1, by omega⟩).trans (onlyChanges_setPc _ s.stack[s.sp.val - 1])
    exact ⟨_, exec_op00EE_of_pos s h, rfl, rfl, frame.mono fun _ => Or.symm⟩

/-! ### Jumps (R145, R146) -/

theorem exec_op1nnn (nnn : Imm12) (s : State) : exec (.op1nnn nnn) s = .next (s.setPc (addressOf nnn)) := rfl

theorem exec_opBnnn (nnn : Imm12) (s : State) :
    exec (.opBnnn nnn) s = .next (s.setPc (addressOf nnn + widen (s.reg 0))) := rfl

/-- The largest sum, 0xFFF + 0xFF, fits in 16 bits (R146). -/
theorem addressOf_add_widen_toNat (nnn : Imm12) (b : Byte) :
    (addressOf nnn + widen b).toNat = nnn.toNat + b.toNat := by
  simp only [BitVec.toNat_add, addressOf_toNat, widen, BitVec.toNat_setWidth]; omega

theorem stepsFrom_unscheduled {s u : State} (h : s.StepsFrom u) (ho : s.hostOps = []) : u = s := by
  obtain ⟨-, -, ⟨-, rfl⟩ | ⟨r, ops, hs, -⟩⟩ := h
  · rfl
  · simp [ho] at hs

/-- With PC from 4095 on the second byte of the opcode is beyond memory, so the STEP faults at its fetch (R121). -/
theorem step_of_fetch_beyond {s u : State} (h : s.StepsFrom u) (hpc : 4095 ≤ s.pc.toNat) :
    step s = .next (u.setFault .outOfBounds) := by
  have hfetch : fetch u = none := (stepsFrom_fetch s h).trans (fetch_of_gt s (by omega))
  rw [step_of_stepsFrom s h, coreStep_of_fetch_none u (stepsFrom_fault s h) hfetch]

/-- The STEP of an instruction that only writes PC: it completes, both timers tick, and with nothing scheduled the next
operation is a STEP again. -/
theorem step_of_exec_setPc {s u : State} {op a : Word} (h : s.StepsFrom u) (hop : fetch s = some op)
    (hexec : exec (decode op) u = .next (u.setPc a)) :
    ∃ t, step s = .next t ∧ t.pc = a ∧ t.dt.toNat = s.dt.toNat - 1 ∧ t.st.toNat = s.st.toNat - 1 ∧
      (s.hostOps = [] → t.StepsFrom t) := by
  have hfault : u.fault = none := stepsFrom_fault s h
  have hus := stepsFrom_eq s h
  refine ⟨_, step_of_completes h hop hexec hfault, rfl, ?_, ?_, fun ho => ?_⟩
  · rw [hus]; exact tick_toNat s.dt
  · rw [hus]; exact tick_toNat s.st
  · have hops : u.hostOps = [] := by rw [stepsFrom_unscheduled h ho, ho]
    exact stepsFrom_of_live _ ⟨hops, HostPhase.noConfusion, hfault⟩

/-- Settles O8: both jumps only write PC, so their STEP is `step_of_exec_setPc`; a target from 4095 on cannot be fetched. -/
theorem jumpsSetPc : Obligations.JumpsSetPc := by
  refine ⟨encodedBy_family 0x1 (by decide) (fun _ => rfl) fun op h => by simp [decode, h],
    encodedBy_family 0xB (by decide) (fun _ => rfl) fun op h => by simp [decode, h],
    fun nnn s => ⟨_, exec_op1nnn nnn s, addressOf_toNat nnn, onlyChanges_setPc s _⟩,
    fun nnn s => ⟨_, exec_opBnnn nnn s, addressOf_add_widen_toNat nnn _, onlyChanges_setPc s _⟩,
    fun op nnn s u hu hop hjump => ?_⟩
  have hreg : u.reg 0 = s.reg 0 := by rw [stepsFrom_eq s hu]; rfl
  obtain ⟨a, hexec, ha⟩ : ∃ a, exec (decode op) u = .next (u.setPc a) ∧
      a.toNat = if decode op = .op1nnn nnn then nnn.toNat else nnn.toNat + (s.reg 0).toNat := by
    rcases hjump with hd | hd <;> rw [hd]
    · exact ⟨_, exec_op1nnn nnn u, by rw [if_pos rfl, addressOf_toNat]⟩
    · exact ⟨_, exec_opBnnn nnn u, by rw [if_neg nofun, addressOf_add_widen_toNat, hreg]⟩
  obtain ⟨t, hstep, rfl, hdt, hst, hnext⟩ := step_of_exec_setPc hu hop hexec
  exact ⟨t, hstep, ha, hdt, hst, hnext, fun w hw hpc => ⟨_, step_of_fetch_beyond hw hpc, rfl⟩⟩

/-! ### Skips (R140, R147 to R150) -/

theorem State.skipIf_pc (s : State) (c : Bool) : (s.skipIf c).pc = if c then s.pc + 4 else s.pc + 2 := by
  cases c
  · rfl
  · exact BitVec.add_assoc s.pc 2 2

/-- What a skip leaves, whatever proposition `p` its test decides. -/
theorem exists_next_of_skipIf {i : Instr} {s : State} {c : Bool} {p : Prop} [Decidable p]
    (h : exec i s = .next (s.skipIf c)) (hc : c = true ↔ p) :
    ∃ t, exec i s = .next t ∧ t.pc = (if p then s.pc + 4 else s.pc + 2) ∧ OnlyChanges (fun q => q = .pc) s t :=
  ⟨_, h, by simp only [State.skipIf_pc, hc], onlyChanges_setPc s _⟩

/-- Settles O9: the two skips test `V[x] = kk` and its negation. -/
theorem skipsOnImmediate : Obligations.SkipsOnImmediate :=
  ⟨encodedBy_family 0x3 (by decide) (fun _ => rfl) fun op h => by simp [decode, h],
    encodedBy_family 0x4 (by decide) (fun _ => rfl) fun op h => by simp [decode, h],
    fun _ _ _ => exists_next_of_skipIf rfl beq_iff_eq, fun _ _ _ => exists_next_of_skipIf rfl bne_iff_ne⟩

/-- Settles O10: the two skips test `V[x] = V[y]` and its negation; families 5 and 9 ask for a zero low nibble. -/
theorem skipsOnRegisters : Obligations.SkipsOnRegisters := by
  refine ⟨encodedBy_lowNibble 0x5 0x0 (by decide) (fun _ => rfl) fun op hf hn => by simp [decode_of_family5 hf, hn],
    encodedBy_lowNibble 0x9 0x0 (by decide) (fun _ => rfl) fun op hf hn => by simp [decode_of_family9 hf, hn],
    fun op hf hn => ?_, fun _ _ _ => exists_next_of_skipIf rfl beq_iff_eq,
    fun _ _ _ => exists_next_of_skipIf rfl bne_iff_ne⟩
  have hN : opN op ≠ 0x0 := opN_ne_zero_of_and_000F hn
  rcases hf with h5 | h9
  · rw [decode_of_family5 ((and_F000_eq op 0x5).mp h5), if_neg hN]
  · rw [decode_of_family9 ((and_F000_eq op 0x9).mp h9), if_neg hN]

end Sys2Proof.Machine
end

section
/-! Proofs about the register loads, arithmetic, logic and the random draw (42_register_alu R162 to R167, R178). -/

namespace Sys2Proof.Machine

/-! ### Encodings of family 8 (R95) -/

theorem encodedBy_family8 {f : Word → Instr} (n : Nibble) (hc : (0x8, n) ∈ lowNibbleCodes)
    (hrow : ∀ op, rowOf (f op) = ⟨0xF00F, wordOfNibbles 0x8 0 0 n⟩)
    (hdec : ∀ op, opN op = n → decodeFamily8 op = f op) : EncodedBy 0xF00F (wordOfNibbles 0x8 0 0 n) f :=
  encodedBy_lowNibble 0x8 n hc hrow fun op hf hn => (decode_of_family8 hf).trans (hdec op hn)

/-! ### Frames -/

theorem onlyChanges_setReg (s : State) (x : Reg) (b : Byte) : OnlyChanges (fun p => p = .reg x) s (s.setReg x b) := by
  intro p hp
  cases p
  case reg q => exact State.setReg_reg_ne s (fun hq => hp (congrArg _ hq)) b
  all_goals rfl

theorem onlyChanges_setDraws (s : State) (n : Nat) : OnlyChanges (fun p => p = .draws) s (s.setDraws n) := by
  intro p hp
  cases p
  case draws => exact absurd rfl hp
  all_goals rfl

/-! ### Instructions that write one register (R162 to R167) -/

/-- What an instruction that writes `b` to `V[x]` and advances leaves; `post` says what is claimed of the new `V[x]`. -/
theorem exists_next_of_setReg {i : Instr} {s : State} {x : Reg} {b : Byte} {post : State → Prop}
    (h : exec i s = .next (s.setReg x b).advance) (hpost : ∀ t : State, t.reg x = b → post t) :
    ∃ t, exec i s = .next t ∧ post t ∧ t.pc = s.pc + 2 ∧ OnlyChanges (fun p => p = .pc ∨ p = .reg x) s t :=
  ⟨_, h, hpost _ (State.setReg_reg_same s x b), rfl,
    ((onlyChanges_setReg s x b).trans (onlyChanges_setPc _ _)).mono fun _ => Or.symm⟩

/-- Settles O11: both write `V[x]` alone; 7xkk writes the sum as a byte, which is the sum modulo 256. -/
theorem loadAndAddImmediate : Obligations.LoadAndAddImmediate :=
  ⟨encodedBy_family 0x6 (by decide) (fun _ => rfl) fun op h => by simp [decode, h],
    encodedBy_family 0x7 (by decide) (fun _ => rfl) fun op h => by simp [decode, h],
    fun _ _ _ => exists_next_of_setReg rfl fun _ hx => hx,
    fun _ _ _ => exists_next_of_setReg rfl fun _ hx => hx ▸ BitVec.toNat_ofNat _ 8⟩

/-- Settles O12: all four write `V[x]` alone, and the bits of OR, AND and XOR are those of the bit vector operations. -/
theorem copyAndLogic : Obligations.CopyAndLogic :=
  ⟨encodedBy_family8 0x0 (by decide) (fun _ => rfl) fun op hn => by simp [decodeFamily8, hn],
    encodedBy_family8 0x1 (by decide) (fun _ => rfl) fun op hn => by simp [decodeFamily8, hn],
    encodedBy_family8 0x2 (by decide) (fun _ => rfl) fun op hn => by simp [decodeFamily8, hn],
    encodedBy_family8 0x3 (by decide) (fun _ => rfl) fun op hn => by simp [decodeFamily8, hn],
    fun _ _ _ => exists_next_of_setReg rfl fun _ hx => hx,
    fun _ _ _ => exists_next_of_setReg rfl fun _ hx _ _ => hx ▸ BitVec.getLsbD_or,
    fun _ _ _ => exists_next_of_setReg rfl fun _ hx _ _ => hx ▸ BitVec.getLsbD_and,
    fun _ _ _ => exists_next_of_setReg rfl fun _ hx _ _ => hx ▸ BitVec.getLsbD_xor⟩

/-! ### The random draw (R178) -/

theorem exec_opCxkk (x : Reg) (kk : Byte) (s : State) :
    exec (.opCxkk x kk) s = .next ((s.setReg x (s.draw &&& kk)).setDraws (s.draws + 1)).advance := rfl

@[simp] theorem State.setRnd_isDown (s : State) (r : Option Byte) (b : Byte) : (s.setRnd r).isDown b = s.isDown b := rfl
@[simp] theorem State.setDraws_isDown (s : State) (n : Nat) (b : Byte) : (s.setDraws n).isDown b = s.isDown b := rfl

section IgnoredDraw

variable {s t u : State}

/-- An instruction that checks its addresses first ignores the draw if its writes do. -/
theorem guarded_ignores_draw {c : Prop} [Decidable c] {k : FaultKind} {r : Option Byte} {n : Nat}
    (h : (if c then raise k s else .next u) = .next t) :
    (if c then raise k ((s.setRnd r).setDraws n) else .next ((u.setRnd r).setDraws n)) =
      .next ((t.setRnd r).setDraws n) := by
  split at h <;> cases h
  · exact if_pos ‹_›
  · exact if_neg ‹_›

/-- No execute phase but that of Cxkk looks at the draw or its count: its checks and its writes are the same. -/
theorem exec_ignores_draw {i : Instr} (r : Option Byte) (n : Nat) (hi : ∀ x kk, i ≠ .opCxkk x kk)
    (h : exec i s = .next t) : exec i ((s.setRnd r).setDraws n) = .next ((t.setRnd r).setDraws n) := by
  cases i
  case opCxkk x kk => exact absurd rfl (hi x kk)
  case op00EE =>
    by_cases hsp : 0 < s.sp.val
    · rw [exec_op00EE_of_pos s hsp] at h; cases h; exact exec_op00EE_of_pos ((s.setRnd r).setDraws n) hsp
    · rw [exec_op00EE_of_empty s hsp] at h; cases h; exact exec_op00EE_of_empty _ hsp
  case op2nnn nnn =>
    by_cases hsp : s.sp.val < 16
    · rw [exec_op2nnn_of_lt nnn s hsp] at h; cases h; exact exec_op2nnn_of_lt nnn ((s.setRnd r).setDraws n) hsp
    · rw [exec_op2nnn_of_full nnn s hsp] at h; cases h; exact exec_op2nnn_of_full nnn _ hsp
  case opEx9E x | opExA1 x =>
    simp only [exec, execEx9E, execExA1, State.setDraws_isDown, State.setRnd_isDown, State.setDraws_reg,
      State.setRnd_reg] at h ⊢
    generalize s.isDown (s.reg x) = key at h ⊢
    cases key <;> cases h <;> rfl
  case opFx0A x =>
    simp only [exec, execFx0A, State.setDraws_latch, State.setRnd_latch] at h ⊢
    generalize s.latch = key at h ⊢
    cases key <;> cases h <;> rfl
  case opDxyn | opFx33 | opFx55 | opFx65 => exact guarded_ignores_draw h
  all_goals cases h; rfl

end IgnoredDraw

/-- Settles O16: Cxkk writes `V[x]`, the count of draws and PC in a row; every other instruction is `exec_ignores_draw`. -/
theorem randomIsDrawAndMask : Obligations.RandomIsDrawAndMask := by
  refine ⟨encodedBy_family 0xC (by decide) (fun _ => rfl) fun op h => by simp [decode, h], fun x kk s => ?_,
    fun _ _ _ r n hi h => exec_ignores_draw r n hi h⟩
  have frame := ((onlyChanges_setReg s x (s.draw &&& kk)).trans (onlyChanges_setDraws _ (s.draws + 1))).trans
    (onlyChanges_setPc _ (s.pc + 2))
  exact ⟨_, exec_opCxkk x kk s, State.setReg_reg_same s x _, rfl, frame.mono fun _ => Or.symm⟩

end Sys2Proof.Machine
end

section
/-! Proofs about the index register and memory instructions (43_index_memory R191 to R200). -/

namespace Sys2Proof.Machine

/-! ### Encodings by family and low byte (R95) -/

theorem encodedBy_lowByte {f : Word → Instr} (g : Nibble) (k : Byte) (hc : (g, k) ∈ lowByteCodes)
    (hrow : ∀ op, rowOf (f op) = ⟨0xF0FF, wordOfXkk g 0 k⟩)
    (hdec : ∀ op, opF op = g → opKk op = k → decode op = f op) : EncodedBy 0xF0FF (wordOfXkk g 0 k) f :=
  encodedBy_of_row (lowByteCode_row_mem (g, k) hc) hrow fun op h =>
    have ⟨hf, hk⟩ := (and_F0FF_eq op g k).mp h
    hdec op hf hk

theorem encodedBy_familyF {f : Word → Instr} (k : Byte) (hc : (0xF, k) ∈ lowByteCodes)
    (hrow : ∀ op, rowOf (f op) = ⟨0xF0FF, wordOfXkk 0xF 0 k⟩)
    (hdec : ∀ op, opKk op = k → decodeFamilyF op = f op) : EncodedBy 0xF0FF (wordOfXkk 0xF 0 k) f :=
  encodedBy_lowByte 0xF k hc hrow fun op hf hk => (decode_of_familyF hf).trans (hdec op hk)

/-! ### Updates of a block and of I: what they leave, and their frames -/

theorem State.storeBytes_byteAt (s : State) (a : Nat) {bs : List Byte} {k : Nat} (hk : k < bs.length) :
    (s.storeBytes a bs).byteAt (a + k) = bs.getD k 0 := by
  have inBlock : a ≤ a + k ∧ a + k < a + bs.length := by omega
  rw [State.storeBytes_eq, State.setMem_byteAt, Memory.read_writeBytes, if_pos inBlock, Nat.add_sub_cancel_left]

theorem onlyChanges_storeBytes (s : State) (a : Nat) (bs : List Byte) :
    OnlyChanges (fun p => ∃ k < bs.length, p = .byte (a + k)) s (s.storeBytes a bs) := by
  intro p hp
  cases p
  case byte c =>
    refine Memory.read_writeBytes_outside fun ⟨hac, hc⟩ => hp ⟨c - a, by omega, ?_⟩
    rw [Nat.add_sub_cancel' hac]
  all_goals rfl

theorem State.loadRegs_reg (s : State) (x : Reg) (a : Nat) (q : Reg) :
    (s.loadRegs x a).reg q = if q ≤ x then s.byteAt (a + q.val) else s.reg q :=
  s.setRegs_ofFn_reg _ q

theorem State.loadRegs_pcn (s : State) (x : Reg) (a : Nat) : (s.loadRegs x a).pcn = s.pcn := s.setRegs_pcn _

/-- A write of all the registers changes those whose new value is another one. (The frame of a block load goes through this
lemma, since comparing states that hold its `Vector.ofFn` is costly.) -/
theorem onlyChanges_setRegs (s : State) (v : Vector Byte 16) :
    OnlyChanges (fun p => ∃ k : Reg, v[k.val] ≠ s.reg k ∧ p = .reg k) s (s.setRegs v) := by
  intro p hp
  cases p
  case reg q => exact of_not_not fun hq => hp ⟨q, hq, rfl⟩
  all_goals rfl

theorem onlyChanges_loadRegs (s : State) (x : Reg) (a : Nat) :
    OnlyChanges (fun p => ∃ k : Reg, k ≤ x ∧ p = .reg k) s (s.loadRegs x a) := by
  refine (onlyChanges_setRegs s _).mono fun _ ⟨k, hk, hp⟩ => ⟨k, ?_, hp⟩
  by_contra hkx
  exact hk ((s.loadRegs_reg x a k).trans (if_neg hkx))

theorem onlyChanges_setI (s : State) (w : Word) : OnlyChanges (fun p => p = .i) s (s.setI w) := by
  intro p hp
  cases p
  case i => exact absurd rfl hp
  all_goals rfl

theorem OnlyChanges.advance {c : StatePart → Prop} {s t : State} (h : OnlyChanges c s t) :
    OnlyChanges (fun p => p = .pc ∨ c p) s t.advance :=
  (h.trans (onlyChanges_setPc t t.pcn)).mono fun _ => Or.symm

/-! ### What the instructions answer, by their one check (R66) -/

theorem exec_opFx33_of_lt (x : Reg) (s : State) (h : s.i.toNat + 2 < 4096) :
    exec (.opFx33 x) s = .next (s.storeBytes s.i.toNat (bcdDigits (s.reg x))).advance := if_neg (Nat.not_le.mpr h)

theorem exec_opFx33_of_ge (x : Reg) (s : State) (h : 4096 ≤ s.i.toNat + 2) :
    exec (.opFx33 x) s = raise .outOfBounds s := if_pos h

theorem exec_opFx55_of_lt (x : Reg) (s : State) (h : s.i.toNat + x.val < 4096) :
    exec (.opFx55 x) s = .next (s.storeBytes s.i.toNat (s.firstRegs x)).advance := if_neg (Nat.not_le.mpr h)

theorem exec_opFx55_of_ge (x : Reg) (s : State) (h : 4096 ≤ s.i.toNat + x.val) :
    exec (.opFx55 x) s = raise .outOfBounds s := if_pos h

theorem exec_opFx65_of_lt (x : Reg) (s : State) (h : s.i.toNat + x.val < 4096) :
    exec (.opFx65 x) s = .next (s.loadRegs x s.i.toNat).advance := if_neg (Nat.not_le.mpr h)

theorem exec_opFx65_of_ge (x : Reg) (s : State) (h : 4096 ≤ s.i.toNat + x.val) :
    exec (.opFx65 x) s = raise .outOfBounds s := if_pos h

/-- An instruction that raises OutOfBounds leaves every byte, the registers and I. -/
theorem exists_next_of_raise_outOfBounds {i : Instr} {s : State} (h : exec i s = raise .outOfBounds s) :
    ∃ t, exec i s = .next t ∧ t.fault = some .outOfBounds ∧ (∀ a, t.byteAt a = s.byteAt a) ∧
      (∀ r, t.reg r = s.reg r) ∧ t.i = s.i :=
  ⟨_, h, rfl, fun _ => rfl, fun _ => rfl, rfl⟩

/-- What an instruction that stores a block and advances leaves. -/
theorem exists_next_of_storeBytes {i : Instr} {s : State} {a : Nat} {bs : List Byte}
    (h : exec i s = .next (s.storeBytes a bs).advance) :
    ∃ t, exec i s = .next t ∧ (∀ k < bs.length, t.byteAt (a + k) = bs.getD k 0) ∧ t.pc = s.pc + 2 ∧
      OnlyChanges (fun p => p = .pc ∨ ∃ k < bs.length, p = .byte (a + k)) s t :=
  ⟨_, h, fun _ hk => s.storeBytes_byteAt a hk, rfl, (onlyChanges_storeBytes s a bs).advance⟩

/-- What an instruction that writes `w` to I and advances leaves, `w` given by its value `n`. -/
theorem exists_next_of_setI {i : Instr} {s : State} {w : Word} {n : Nat} (h : exec i s = .next (s.setI w).advance)
    (hw : w.toNat = n) :
    ∃ t, exec i s = .next t ∧ t.i.toNat = n ∧ t.pc = s.pc + 2 ∧ OnlyChanges (fun p => p = .pc ∨ p = .i) s t :=
  ⟨_, h, hw, rfl, (onlyChanges_setI s w).advance⟩

/-! ### Register blocks (R198, R200) -/

/-- Settles O19: the block stored is `V[0], ..., V[x]`, whose places are the registers up to x; with the last address
beyond memory it only raises. -/
theorem storeRegisterBlock : Obligations.StoreRegisterBlock := by
  refine ⟨encodedBy_familyF 0x55 (by decide) (fun _ => rfl) fun op hk => by simp [decodeFamilyF, hk], fun x s h => ?_,
    fun x s h => exists_next_of_raise_outOfBounds (exec_opFx55_of_ge x s h)⟩
  obtain ⟨t, hexec, hbytes, hpc, frame⟩ := exists_next_of_storeBytes (exec_opFx55_of_lt x s h)
  rw [State.firstRegs_length] at hbytes frame
  refine ⟨t, hexec, fun k hk => ?_, hpc, frame.mono fun p => Or.imp_right ?_⟩
  · exact (hbytes k.val (Nat.lt_succ_of_le hk)).trans (s.firstRegs_getD x k hk)
  · rintro ⟨k, hk, rfl⟩
    exact ⟨⟨k, by omega⟩, Nat.le_of_lt_succ hk, rfl⟩

/-- Settles O20: the block load writes the registers up to x and no other part; with the last address beyond memory it
only raises. -/
theorem loadRegisterBlock : Obligations.LoadRegisterBlock := by
  refine ⟨encodedBy_familyF 0x65 (by decide) (fun _ => rfl) fun op hk => by simp [decodeFamilyF, hk], fun x s h => ?_,
    fun x s h => exists_next_of_raise_outOfBounds (exec_opFx65_of_ge x s h)⟩
  refine ⟨_, exec_opFx65_of_lt x s h, fun k hk => ?_, s.loadRegs_pcn x _, (onlyChanges_loadRegs s x _).advance⟩
  rw [State.advance_eq, State.setPc_reg, State.loadRegs_reg, if_pos hk]

/-! ### The index register (R191 to R193) -/

/-- The largest glyph address, 0x050 + 5 · 0xFF, fits in 16 bits (R193). -/
theorem glyphAddress_toNat (b : Byte) : (glyphAddress b).toNat = 0x050 + b.toNat * 5 := by
  simp only [glyphAddress, Config.fontBase, BitVec.toNat_ofNat]; omega

/-- Settles O17: all three write I alone, with the values of `addressOf`, of a 16-bit sum and of `glyphAddress`. -/
theorem indexRegisterWrites : Obligations.IndexRegisterWrites :=
  ⟨encodedBy_family 0xA (by decide) (fun _ => rfl) fun op h => by simp [decode, h],
    encodedBy_familyF 0x1E (by decide) (fun _ => rfl) fun op hk => by simp [decodeFamilyF, hk],
    encodedBy_familyF 0x29 (by decide) (fun _ => rfl) fun op hk => by simp [decodeFamilyF, hk],
    fun nnn _ => exists_next_of_setI rfl (addressOf_toNat nnn),
    fun _ _ => exists_next_of_setI rfl (BitVec.toNat_ofNat _ 16),
    fun x s => exists_next_of_setI rfl (glyphAddress_toNat (s.reg x))⟩

/-! ### Decimal digits (R196) -/

/-- A digit fits in a byte: each of the three stored bytes has the digit as its value. -/
theorem bcdDigits_getD_toNat (b : Byte) :
    ((bcdDigits b).getD 0 0).toNat = b.toNat / 100 ∧ ((bcdDigits b).getD 1 0).toNat = b.toNat / 10 % 10 ∧
      ((bcdDigits b).getD 2 0).toNat = b.toNat % 10 := by
  simp only [bcdDigits, List.getD_cons_zero, List.getD_cons_succ, BitVec.toNat_ofNat]; omega

/-- Settles O18: the block stored is the three digits; with the last address beyond memory it only raises. -/
theorem storeDecimalDigits : Obligations.StoreDecimalDigits := by
  refine ⟨encodedBy_familyF 0x33 (by decide) (fun _ => rfl) fun op hk => by simp [decodeFamilyF, hk], fun x s h => ?_,
    fun x s h => exists_next_of_raise_outOfBounds (exec_opFx33_of_ge x s h)⟩
  obtain ⟨t, hexec, hbytes, hpc, frame⟩ := exists_next_of_storeBytes (exec_opFx33_of_lt x s h)
  obtain ⟨hundreds, tens, ones⟩ := bcdDigits_getD_toNat (s.reg x)
  rw [bcdDigits_length] at hbytes frame
  refine ⟨t, hexec, ?_, ?_, ?_, hpc, frame.mono fun p => Or.imp_right ?_⟩
  · rw [← hundreds, ← hbytes 0 (by omega), Nat.add_zero]
  · rw [← tens, ← hbytes 1 (by omega)]
  · rw [← ones, ← hbytes 2 (by omega)]
  · rintro ⟨k, hk, rfl⟩
    obtain rfl | rfl | rfl : k = 0 ∨ k = 1 ∨ k = 2 := by omega
    · exact Or.inl rfl
    · exact Or.inr (Or.inl rfl)
    · exact Or.inr (Or.inr rfl)

end Sys2Proof.Machine
end

section
/-! Proofs about the display instructions (44_display R211 to R216). -/

namespace Sys2Proof.Machine

/-! ### Frames -/

theorem onlyChanges_setFb (s : State) (fb : Vector PixelRow 32) :
    OnlyChanges (fun p => ∃ py px, p = .pixel py px) s (s.setFb fb) := by
  intro p hp
  cases p
  case pixel py px => exact absurd ⟨py, px, rfl⟩ hp
  all_goals rfl

/-! ### Clear (R211, R212) -/

theorem exec_op00E0 (s : State) : exec .op00E0 s = .next (s.setFb clearedFb).advance := rfl

/-- Settles O24: the mask leaves the one word 00E0; the clear is a write of the framebuffer, in which every pixel is then off,
and an advance of PC. -/
theorem clearScreen : Obligations.ClearScreen := by
  refine ⟨encodedBy_of_row (r := ⟨0xFFFF, 0x00E0⟩) (by decide) (fun _ => rfl) fun op h => ?_, fun s =>
    ⟨_, exec_op00E0 s, fun py px _ _ => pixelOf_cleared py px, rfl, (onlyChanges_setFb s clearedFb).advance⟩⟩
  rw [(and_FFFF op).symm.trans h]; rfl

end Sys2Proof.Machine
end

section
/-! Proofs about the keypad and timer instructions (45_keypad_timers R234, R235). -/

namespace Sys2Proof.Machine

theorem onlyChanges_setDt (s : State) (b : Byte) : OnlyChanges (fun p => p = .dt) s (s.setDt b) := by
  intro p hp
  cases p
  case dt => exact absurd rfl hp
  all_goals rfl

theorem exec_opFx07 (x : Reg) (s : State) : exec (.opFx07 x) s = .next (s.setReg x s.dt).advance := rfl

theorem exec_opFx15 (x : Reg) (s : State) : exec (.opFx15 x) s = .next (s.setDt (s.reg x)).advance := rfl

section StepsFrom

variable {s u : State}

/-! ### What a STEP starts from has the registers and the timers of the state before it -/

theorem stepsFrom_reg (h : s.StepsFrom u) (r : Reg) : u.reg r = s.reg r := by rw [stepsFrom_eq s h]; rfl

theorem stepsFrom_dt (h : s.StepsFrom u) : u.dt = s.dt := by rw [stepsFrom_eq s h]

theorem stepsFrom_st (h : s.StepsFrom u) : u.st = s.st := by rw [stepsFrom_eq s h]

/-- The STEP of an instruction that raises no fault keeps the registers that it left, and lowers the timers that it left by
one (R128). -/
theorem step_ticks_of_completes {v : State} {op : Word} (h : s.StepsFrom u) (hop : fetch s = some op)
    (hv : exec (decode op) u = .next v) (hf : v.fault = none) :
    ∃ t, step s = .next t ∧ (∀ r, t.reg r = v.reg r) ∧ t.dt.toNat = v.dt.toNat - 1 ∧ t.st.toNat = v.st.toNat - 1 :=
  ⟨_, step_of_completes h hop hv hf, endOfStep_reg v _, tick_toNat v.dt, tick_toNat v.st⟩

end StepsFrom

/-- Settles O29: the execute phase writes the old DT to `V[x]` and leaves DT, which the end of the STEP then ticks. -/
theorem readDelayTimer : Obligations.ReadDelayTimer := by
  refine ⟨encodedBy_familyF 0x07 (by decide) (fun _ => rfl) fun op hk => by simp [decodeFamilyF, hk],
    fun x s => exists_next_of_setReg (exec_opFx07 x s) fun _ hx => hx, fun x op s u hu hop hd => ?_⟩
  have hfault : u.fault = none := stepsFrom_fault s hu
  have hexec : exec (decode op) u = .next (u.setReg x u.dt).advance := hd ▸ exec_opFx07 x u
  obtain ⟨t, hstep, hreg, hdt, -⟩ := step_ticks_of_completes hu hop hexec hfault
  refine ⟨t, hstep, ?_, ?_⟩
  · calc t.reg x = (u.setReg x u.dt).reg x := hreg x
      _ = u.dt := State.setReg_reg_same u x u.dt
      _ = s.dt := stepsFrom_dt hu
  · rw [← stepsFrom_dt hu]; exact hdt

/-- Settles O30: the execute phase writes `V[x]` to DT and leaves ST; the end of the STEP then ticks both. -/
theorem setDelayTimerThenTick : Obligations.SetDelayTimerThenTick := by
  refine ⟨encodedBy_familyF 0x15 (by decide) (fun _ => rfl) fun op hk => by simp [decodeFamilyF, hk],
    fun x s => ⟨_, exec_opFx15 x s, rfl, rfl, (onlyChanges_setDt s _).advance⟩, fun x op s u hu hop hd => ?_⟩
  have hfault : u.fault = none := stepsFrom_fault s hu
  have hexec : exec (decode op) u = .next (u.setDt (u.reg x)).advance := hd ▸ exec_opFx15 x u
  obtain ⟨t, hstep, -, hdt, hst⟩ := step_ticks_of_completes hu hop hexec hfault
  refine ⟨t, hstep, ?_, ?_⟩
  · rw [← stepsFrom_reg hu x]; exact hdt
  · rw [← stepsFrom_st hu]; exact hst

end Sys2Proof.Machine
end

section
/-! Proofs that decoding and encoding are inverse (30_encoding R91 to R97, R102, R103). -/

namespace Sys2Proof

/-! ### Bytes in memory order (R62) -/

theorem opcodeOfBytes_toNat (hi lo : Byte) : (opcodeOfBytes hi lo).toNat = 256 * hi.toNat + lo.toNat := by
  simp only [opcodeOfBytes, append_toNat, Nat.reducePow, Nat.mul_comm]

/-- The two bytes of a word, read back as an opcode, are the word. -/
theorem opcodeOfBytes_bytesOfWord (op : Word) : opcodeOfBytes (op.extractLsb' 8 8) (op.extractLsb' 0 8) = op := by
  apply BitVec.eq_of_toNat_eq
  rw [opcodeOfBytes_toNat, BitVec.extractLsb'_toNat, BitVec.extractLsb'_toNat, Nat.shiftRight_eq_div_pow]
  have := op.isLt
  omega

theorem decodeBytes_bytesOfWord_append (op : Word) (rest : List Byte) :
    decodeBytes (bytesOfWord op ++ rest) = .ok (decode op, rest) := by
  simp only [bytesOfWord, List.cons_append, List.nil_append, decodeBytes, opcodeOfBytes_bytesOfWord]

theorem tableWord_toNat (op : Word) : tableWord 16 op.toNat = op := by
  rw [tableWord, Nat.mod_eq_of_lt op.isLt, BitVec.ofNat_toNat, BitVec.setWidth_eq]

theorem decodeTableWord_toNat (op : Word) : decodeTableWord 16 op.toNat = some (decode op) := by
  rw [decodeTableWord, tableWord_toNat, ← List.append_nil (bytesOfWord op), decodeBytes_bytesOfWord_append]

/-! ### The decoder undoes the encoder -/

/-- The decoder selects the family, then the low nibble or the low byte, which the encoder wrote as literals; the operands
are the fields that the encoder wrote. -/
theorem decode_encode {i : Instr} (h : i.wellFormed = true) : decode (encode i) = i := by
  cases i
  case nop op => exact Machine.decode_of_not_matchesPattern (by simpa [Instr.wellFormed, encode] using h)
  case op00E0 | op00EE => rfl
  case op5xy0 => simp [decode_of_family5, encode, opX, opY]
  case op9xy0 => simp [decode_of_family9, encode, opX, opY]
  case op8xy0 | op8xy1 | op8xy2 | op8xy3 | op8xy4 | op8xy5 | op8xy6 | op8xy7 | op8xyE =>
    simp [decode_of_family8, decodeFamily8, encode, opX, opY]
  case opEx9E | opExA1 => simp [decode_of_familyE, decodeFamilyE, encode, opX]
  case opFx07 | opFx0A | opFx15 | opFx18 | opFx1E | opFx29 | opFx33 | opFx55 | opFx65 =>
    simp [decode_of_familyF, decodeFamilyF, encode, opX]
  case opDxyn => simp [decode, encode, opX, opY]
  all_goals simp [decode, encode, opX]

/-- Settles O1: the word by `decode_encode`, the bytes because they are that word's, high byte first. -/
theorem decodeAfterEncode : Obligations.DecodeAfterEncode := fun i h =>
  ⟨decode_encode h, fun rest => by rw [encodeBytes, decodeBytes_bytesOfWord_append, decode_encode h]⟩

/-! ### The encoder undoes the decoder -/

section Fields

variable {op : Word} {f : Nibble}

theorem wordOfNnn_of_family (hf : opF op = f) : wordOfNnn f (opNnn op) = op := hf ▸ wordOfNnn_fields op

theorem wordOfXkk_of_family (hf : opF op = f) : wordOfXkk f (opXBits op) (opKk op) = op := hf ▸ wordOfXkk_fields op

theorem wordOfXkk_of_lowByte {k : Byte} (hf : opF op = f) (hk : opKk op = k) : wordOfXkk f (opXBits op) k = op :=
  hk ▸ wordOfXkk_of_family hf

theorem wordOfNibbles_of_family (hf : opF op = f) : wordOfNibbles f (opXBits op) (opYBits op) (opN op) = op :=
  hf ▸ wordOfNibbles_fields op

theorem wordOfNibbles_of_lowNibble {n : Nibble} (hf : opF op = f) (hn : opN op = n) :
    wordOfNibbles f (opXBits op) (opYBits op) n = op := hn ▸ wordOfNibbles_of_family hf

theorem encode_decodeFamily0 (op : Word) : encode (decodeFamily0 op) = op := by
  unfold decodeFamily0
  split_ifs with hE0 hEE
  · exact hE0.symm
  · exact hEE.symm
  · rfl

theorem encode_decodeFamily8 (hf : opF op = 0x8) : encode (decodeFamily8 op) = op := by
  unfold decodeFamily8
  split_ifs
  case neg => rfl
  all_goals simp [encode, opX, opY, wordOfNibbles_of_lowNibble, *]

theorem encode_decodeFamilyE (hf : opF op = 0xE) : encode (decodeFamilyE op) = op := by
  unfold decodeFamilyE
  split_ifs
  case neg => rfl
  all_goals simp [encode, opX, wordOfXkk_of_lowByte, *]

theorem encode_decodeFamilyF (hf : opF op = 0xF) : encode (decodeFamilyF op) = op := by
  unfold decodeFamilyF
  split_ifs
  case neg => rfl
  all_goals simp [encode, opX, wordOfXkk_of_lowByte, *]

theorem encode_decode_of_familyCode (hf : opF op ∈ familyCodes) : encode (decode op) = op := by
  generalize h : opF op = f at hf
  fin_cases hf <;>
    simp [decode, encode, opX, opY, wordOfNnn_of_family, wordOfXkk_of_family, wordOfNibbles_of_family, h]

end Fields

/-- The fields that the decoder reads, with the literals that it matched, are all of the word (R94). -/
theorem encode_decode (op : Word) : encode (decode op) = op := by
  obtain hf | hf | hf | hf | hf | hf | hf := family_cases (opF op)
  · exact encode_decode_of_familyCode hf
  · rw [decode_of_family0 hf, encode_decodeFamily0]
  · rw [decode_of_family5 hf]
    split_ifs with hn
    · simp [encode, opX, opY, wordOfNibbles_of_lowNibble, hf, hn]
    · rfl
  · rw [decode_of_family8 hf, encode_decodeFamily8 hf]
  · rw [decode_of_family9 hf]
    split_ifs with hn
    · simp [encode, opX, opY, wordOfNibbles_of_lowNibble, hf, hn]
    · rfl
  · rw [decode_of_familyE hf, encode_decodeFamilyE hf]
  · rw [decode_of_familyF hf, encode_decodeFamilyF hf]

/-- A no-operation carries the word it was decoded from, and a word that matches a row decodes to an instruction of that row
(R103). -/
theorem wellFormed_decode (op : Word) : (decode op).wellFormed = true := by
  cases hd : decode op
  case nop w =>
    obtain rfl : w = op := (congrArg encode hd).symm.trans (encode_decode op)
    simp only [Instr.wellFormed, matchesPattern, Bool.not_eq_true', List.any_eq_false, OpcodeRow.matches, beq_iff_eq]
    intro r hr hmatch
    have hrow : rowOf (.nop w) = r := hd ▸ rowOf_decode_of_match hr hmatch
    exact rowOf_nop_notMem w (hrow ▸ hr)
  all_goals rfl

/-- Settles O2: each clause by the lemma about the decoder. -/
theorem encodeAfterDecode : Obligations.EncodeAfterDecode := fun op =>
  ⟨encode_decode op, wellFormed_decode op, decodeTableWord_toNat op⟩

/-- Settles O4: the decoder computes all sixteen. -/
theorem writtenOutWordsDecode : Obligations.WrittenOutWordsDecode := by
  unfold Obligations.WrittenOutWordsDecode
  decide

end Sys2Proof
end

section
/-! Proofs about the arithmetic and the shifts that write a flag (42_register_alu R161, R168 to R172). -/

namespace Sys2Proof.Machine

/-! ### The flags, and the results as numbers -/

theorem flagOf_decide (p : Prop) [Decidable p] : flagOf (decide p) = if p then 1 else 0 := by
  simp only [flagOf, decide_eq_true_eq]

theorem shiftedOutRight_toNat (a : Byte) : (shiftedOutRight a).toNat = a.toNat % 2 := by
  rw [shiftedOutRight, BitVec.getLsbD, Nat.testBit_zero, flagOf_decide]
  split <;> simp <;> omega

theorem shiftedOutLeft_toNat (a : Byte) : (shiftedOutLeft a).toNat = a.toNat / 128 := by
  rw [shiftedOutLeft, BitVec.getLsbD, Nat.testBit_eq_decide_div_mod_eq, flagOf_decide]
  split <;> simp <;> omega

theorem sub_toNat_int (a b : Byte) : ((a - b).toNat : Int) = (a.toNat - b.toNat : Int) % 256 := by
  rw [BitVec.toNat_sub]; omega

theorem shiftRight_one_toNat (a : Byte) : (a >>> 1).toNat = a.toNat / 2 := by
  rw [BitVec.toNat_ushiftRight, Nat.shiftRight_eq_div_pow, pow_one]

theorem shiftLeft_one_toNat (a : Byte) : (a <<< 1).toNat = 2 * a.toNat % 256 := by
  rw [BitVec.toNat_shiftLeft, Nat.shiftLeft_eq, pow_one, Nat.mul_comm]

/-! ### Instructions that write VF and then `V[x]` (R161) -/

theorem onlyChanges_writeFlagThenReg (s : State) (flag : Byte) (x : Reg) (b : Byte) :
    OnlyChanges (fun p => p = .reg x ∨ p = .reg Reg.VF) s (s.writeFlagThenReg flag x b) :=
  ((onlyChanges_setReg s Reg.VF flag).trans (onlyChanges_setReg _ x b)).mono fun _ => Or.symm

/-- What an instruction that writes `flag` to VF, then `b` to `V[x]`, and advances leaves; `result` and `carry` say what is
claimed of the new `V[x]` and of the new VF. -/
theorem exists_next_of_writeFlagThenReg {i : Instr} {s : State} {x : Reg} {flag b : Byte} {result carry : State → Prop}
    (h : exec i s = .next (s.writeFlagThenReg flag x b).advance) (hresult : ∀ t : State, t.reg x = b → result t)
    (hcarry : ∀ t : State, t.reg Reg.VF = flag → carry t) :
    ∃ t, exec i s = .next t ∧ result t ∧ (x ≠ Reg.VF → carry t) ∧ t.pc = s.pc + 2 ∧
      OnlyChanges (fun p => p = .pc ∨ p = .reg x ∨ p = .reg Reg.VF) s t := by
  refine ⟨_, h, hresult _ (State.setReg_reg_same _ x b), fun hx => hcarry _ ?_, rfl,
    (onlyChanges_writeFlagThenReg s flag x b).advance⟩
  exact (State.setReg_reg_ne _ hx.symm b).trans (State.setReg_reg_same s Reg.VF flag)

/-- Settles O13: the sum as a byte is the sum modulo 256, and the carry flag is the comparison with 255. -/
theorem addWithCarry : Obligations.AddWithCarry :=
  ⟨encodedBy_family8 0x4 (by decide) (fun _ => rfl) fun op hn => by simp [decodeFamily8, hn],
    fun _ _ _ => exists_next_of_writeFlagThenReg rfl (fun _ hx => hx ▸ BitVec.toNat_ofNat _ 8)
      fun _ hf => hf.trans (flagOf_decide _)⟩

/-- Settles O14: the difference of bytes is the difference modulo 256, and the flag is the strict comparison. -/
theorem subtractBothWays : Obligations.SubtractBothWays :=
  ⟨encodedBy_family8 0x5 (by decide) (fun _ => rfl) fun op hn => by simp [decodeFamily8, hn],
    encodedBy_family8 0x7 (by decide) (fun _ => rfl) fun op hn => by simp [decodeFamily8, hn],
    fun _ _ _ => exists_next_of_writeFlagThenReg rfl (fun _ hx => hx ▸ sub_toNat_int _ _)
      fun _ hf => hf.trans (flagOf_decide _),
    fun _ _ _ => exists_next_of_writeFlagThenReg rfl (fun _ hx => hx ▸ sub_toNat_int _ _)
      fun _ hf => hf.trans (flagOf_decide _)⟩

/-- Settles O15: a shift halves or doubles modulo 256, and the flag is the bit that it drops. -/
theorem shiftsInPlace : Obligations.ShiftsInPlace :=
  ⟨encodedBy_family8 0x6 (by decide) (fun _ => rfl) fun op hn => by simp [decodeFamily8, hn],
    encodedBy_family8 0xE (by decide) (fun _ => rfl) fun op hn => by simp [decodeFamily8, hn],
    fun _ _ _ => exists_next_of_writeFlagThenReg rfl (fun _ hx => hx ▸ shiftRight_one_toNat _)
      fun _ hf => hf ▸ shiftedOutRight_toNat _,
    fun _ _ _ => exists_next_of_writeFlagThenReg rfl (fun _ hx => hx ▸ shiftLeft_one_toNat _)
      fun _ hf => hf ▸ shiftedOutLeft_toNat _⟩

theorem ite_eq_one_iff (p : Prop) [Decidable p] : (if p then (1 : Byte) else 0) = 1 ↔ p := by
  by_cases hp : p <;> simp [hp]

/-- Settles O23: from the results and the flags of O13 to O15, by arithmetic. -/
theorem flagAndResultAreExact : Obligations.FlagAndResultAreExact := by
  intro x y s hx
  obtain ⟨-, hadd⟩ := addWithCarry
  obtain ⟨-, -, hsub, hsubn⟩ := subtractBothWays
  obtain ⟨-, -, hshr, hshl⟩ := shiftsInPlace
  refine ⟨?_, ?_, ?_, ?_, ?_⟩
  · obtain ⟨t, hexec, hresult, hflag, -⟩ := hadd x y s
    refine ⟨t, hexec, ?_⟩
    rw [hresult, hflag hx]
    split <;> simp <;> omega
  · obtain ⟨t, hexec, hresult, hflag, -⟩ := hsub x y s
    exact ⟨t, hexec, by omega, hflag hx ▸ ite_eq_one_iff _⟩
  · obtain ⟨t, hexec, hresult, hflag, -⟩ := hshr x y s
    have hvf := hflag hx
    exact ⟨t, hexec, by omega⟩
  · obtain ⟨t, hexec, hresult, hflag, -⟩ := hsubn x y s
    exact ⟨t, hexec, by omega, hflag hx ▸ ite_eq_one_iff _⟩
  · obtain ⟨t, hexec, hresult, hflag, -⟩ := hshl x y s
    have hvf := hflag hx
    exact ⟨t, hexec, by omega⟩

end Sys2Proof.Machine
end

section
/-! Proofs about the laws of the memory instructions (43_index_memory, the round trip of R198 and R200, the law after R196). -/

namespace Sys2Proof.Machine

/-- Settles O21: a register up to x comes back as the byte of its own address, which the store wrote from it; the registers
above x and I are in the frames of the load and of the store. -/
theorem storeThenLoadRestores : Obligations.StoreThenLoadRestores := by
  intro x v s h
  obtain ⟨-, hstore, -⟩ := storeRegisterBlock
  obtain ⟨-, hload, -⟩ := loadRegisterBlock
  obtain ⟨t, hexec, hbytes, -, storeFrame⟩ := hstore x s h
  have hti : t.i = s.i := storeFrame .i (by simp)
  obtain ⟨u, hexec', hregs, -, loadFrame⟩ := hload x (t.setRegs v) (by rwa [State.setRegs_i, hti])
  refine ⟨t, u, hexec, hexec', fun k hk => ?_, fun k hk => ?_, ?_⟩
  · rw [hregs k hk, State.setRegs_i, State.setRegs_byteAt, hti, hbytes k hk]
  · exact loadFrame (.reg k) (by simpa using hk)
  · exact (loadFrame .i (by simp)).trans hti

/-- Settles O22: the digits of O18, by arithmetic on a value below 256. -/
theorem decimalDigitsGiveValue : Obligations.DecimalDigitsGiveValue := by
  intro x s h
  obtain ⟨-, hstore, -⟩ := storeDecimalDigits
  obtain ⟨t, hexec, hundreds, tens, ones, -⟩ := hstore x s h
  have := (s.reg x).isLt
  exact ⟨t, hexec, by omega, by omega, by omega, by omega⟩

end Sys2Proof.Machine
end

section
/-! Proofs about the draw (44_display R213 to R216). -/

namespace Sys2Proof.Machine

/-! ### Sprites on the grid -/

/-- A covered pixel is at most 7 columns to the right of the anchor and less than a row per byte below it. -/
theorem SpriteCovers.bounds {bytes : List Byte} {x0 y0 py px : Nat} (h : SpriteCovers bytes x0 y0 py px) :
    x0 ≤ px ∧ px < x0 + 8 ∧ y0 ≤ py ∧ py < y0 + bytes.length := by
  obtain ⟨i, j, b, hb, hj, -, rfl, rfl⟩ := h
  obtain ⟨hi, -⟩ := List.getElem?_eq_some_iff.mp hb
  omega

/-- A draw changes no pixel outside the grid, and those inside that the sprite covers. -/
theorem pixelOf_drawSprite_ne_iff (fb : Vector PixelRow 32) (vx vy : Byte) (bs : List Byte) (py px : Nat) :
    pixelOf (drawSprite fb vx vy bs).1 py px ≠ pixelOf fb py px ↔
      (px < 64 ∧ py < 32) ∧ SpriteCovers bs (vx.toNat % 64) (vy.toNat % 32) py px := by
  by_cases hgrid : px < 64 ∧ py < 32
  · simp only [hgrid, true_and, and_true, pixelOf_drawSprite fb vx vy bs py px hgrid.2 hgrid.1]
  · simp only [hgrid, false_and, pixelOf_outside _ hgrid, ne_eq, not_true_eq_false]

/-- The second of two equal draws undoes the first: each pixel is toggled twice or not at all (R215). -/
theorem drawSprite_twice (fb : Vector PixelRow 32) (vx vy : Byte) (bs : List Byte) :
    (drawSprite (drawSprite fb vx vy bs).1 vx vy bs).1 = fb := by
  refine fb_ext fun py px hy hx => ?_
  have first := pixelOf_drawSprite fb vx vy bs py px hy hx
  have second := pixelOf_drawSprite (drawSprite fb vx vy bs).1 vx vy bs py px hy hx
  by_cases hc : SpriteCovers bs (vx.toNat % 64) (vy.toNat % 32) py px
  · exact (Bool.eq_not.mpr (second.mpr hc)).trans (Bool.eq_not.mpr (first.mpr hc).symm).symm
  · exact (of_not_not fun hne => hc (second.mp hne)).trans (of_not_not fun hne => hc (first.mp hne))

theorem drawSprite_collides_of_clear {fb : Vector PixelRow 32} (h : ∀ py px, pixelOf fb py px = false) (vx vy : Byte)
    (bs : List Byte) : (drawSprite fb vx vy bs).2 = false := by
  rw [← Bool.not_eq_true, drawSprite_collides]
  simp [h]

/-- After a draw on a clear framebuffer the pixels that are on are the covered ones, so the same draw again collides exactly
when there is one. -/
theorem drawSprite_twice_collides_of_clear {fb : Vector PixelRow 32} (h : ∀ py px, pixelOf fb py px = false) (vx vy : Byte)
    (bs : List Byte) :
    (drawSprite (drawSprite fb vx vy bs).1 vx vy bs).2 = true ↔
      ∃ py px, py < 32 ∧ px < 64 ∧ SpriteCovers bs (vx.toNat % 64) (vy.toNat % 32) py px := by
  have on {py px} (hy : py < 32) (hx : px < 64) :
      pixelOf (drawSprite fb vx vy bs).1 py px = true ↔ SpriteCovers bs (vx.toNat % 64) (vy.toNat % 32) py px := by
    rw [← pixelOf_drawSprite fb vx vy bs py px hy hx, h, Bool.ne_false_iff]
  rw [drawSprite_collides]
  constructor
  · rintro ⟨py, px, hy, hx, hc, -⟩
    exact ⟨py, px, hy, hx, hc⟩
  · rintro ⟨py, px, hy, hx, hc⟩
    exact ⟨py, px, hy, hx, hc, (on hy hx).mpr hc⟩

/-- The coordinates of a draw matter only modulo the size of the grid. -/
theorem drawSprite_congr {vx vy vx' vy' : Byte} (hx : vx'.toNat % 64 = vx.toNat % 64) (hy : vy'.toNat % 32 = vy.toNat % 32)
    (fb : Vector PixelRow 32) (bs : List Byte) : drawSprite fb vx' vy' bs = drawSprite fb vx vy bs := by
  simp only [drawSprite, Config.gridW, Config.gridH, hx, hy]

theorem flagOf_eq_one_iff {c : Bool} : flagOf c = 1 ↔ c = true := by
  cases c <;> decide

/-! ### Dxyn, by its one check (R214) -/

/-- The framebuffer and the collision that Dxyn computes. -/
def State.drawn (s : State) (x y : Reg) (n : Nibble) : Vector PixelRow 32 × Bool :=
  drawSprite s.fb (s.reg x) (s.reg y) (s.bytesAt s.i.toNat n.toNat)

/-- The rows of the sprite, if there are any, are inside memory. -/
def State.SpriteFits (s : State) (n : Nibble) : Prop := n.toNat = 0 ∨ s.i.toNat + n.toNat - 1 < 4096

theorem exec_opDxyn_of_fits (x y : Reg) {n : Nibble} {s : State} (h : s.SpriteFits n) :
    exec (.opDxyn x y n) s =
      .next ((s.setFb (s.drawn x y n).1).setReg Reg.VF (flagOf (s.drawn x y n).2)).advance := by
  have inMemory : ¬ (1 ≤ n.toNat ∧ Config.memSize ≤ s.effAddr (n.toNat - 1)) := by
    simp only [State.SpriteFits] at h
    simp only [State.effAddr_eq, Config.memSize]; omega
  exact if_neg inMemory

theorem exec_opDxyn_of_beyond (x y : Reg) {n : Nibble} {s : State} (hn : 1 ≤ n.toNat)
    (h : 4096 ≤ s.i.toNat + n.toNat - 1) : exec (.opDxyn x y n) s = .next (s.setFault .outOfBounds) := by
  have beyond : 1 ≤ n.toNat ∧ Config.memSize ≤ s.effAddr (n.toNat - 1) := by
    simp only [State.effAddr_eq, Config.memSize]; omega
  exact if_pos beyond

theorem State.setFb_setReg_reg (s : State) (fb : Vector PixelRow 32) (r : Reg) (b : Byte) :
    ((s.setFb fb).setReg r b).reg r = b := State.setReg_reg_same _ r b

/-- The frame of a write of the framebuffer, pixel by pixel. -/
theorem onlyChanges_setFb_pixels (s : State) (fb : Vector PixelRow 32) :
    OnlyChanges (fun p => ∃ py px, pixelOf fb py px ≠ s.pixel py px ∧ p = .pixel py px) s (s.setFb fb) := by
  intro p hp
  cases p
  case pixel py px => exact of_not_not fun hne => hp ⟨py, px, hne, rfl⟩
  all_goals rfl

/-- The frame of a draw: VF and the covered pixels. -/
theorem onlyChanges_drawn (s : State) (x y : Reg) (n : Nibble) :
    OnlyChanges (fun p => p = .reg Reg.VF ∨ ∃ py px, p = .pixel py px ∧
        SpriteCovers (s.bytesAt s.i.toNat n.toNat) ((s.reg x).toNat % 64) ((s.reg y).toNat % 32) py px)
      s ((s.setFb (s.drawn x y n).1).setReg Reg.VF (flagOf (s.drawn x y n).2)) := by
  refine ((onlyChanges_setFb_pixels s _).trans (onlyChanges_setReg _ Reg.VF _)).mono ?_
  rintro _ (⟨py, px, hne, rfl⟩ | rfl)
  · exact Or.inr ⟨py, px, rfl, ((pixelOf_drawSprite_ne_iff _ _ _ _ _ _).mp hne).2⟩
  · exact Or.inl rfl

/-! ### The statements -/

/-- Settles O25: the pixels that toggle are those of DrawSprite, and VF is the flag of its collision. -/
theorem drawTogglesCoveredPixels : Obligations.DrawTogglesCoveredPixels := by
  refine ⟨encodedBy_family 0xD (by decide) (fun _ => rfl) fun op h => by simp [decode, h], fun x y n s h => ?_,
    fun x y n s hn h => exec_opDxyn_of_beyond x y hn h⟩
  have collides : (s.drawn x y n).2 = true ↔ _ := drawSprite_collides s.fb (s.reg x) (s.reg y) (s.bytesAt s.i.toNat n.toNat)
  have hvf := s.setFb_setReg_reg (s.drawn x y n).1 Reg.VF (flagOf (s.drawn x y n).2)
  refine ⟨_, exec_opDxyn_of_fits x y h, fun py px hy hx => pixelOf_drawSprite s.fb (s.reg x) (s.reg y) _ py px hy hx,
    ?_, ?_, rfl, (onlyChanges_drawn s x y n).advance.mono ?_⟩
  · rintro ⟨py, px, hy, hx, hon, hc⟩
    have hcol : (s.drawn x y n).2 = true := collides.mpr ⟨py, px, hy, hx, hc, hon⟩
    exact hvf.trans (congrArg flagOf hcol)
  · intro hno
    have hcol : (s.drawn x y n).2 = false := Bool.eq_false_iff.mpr fun hcol => by
      obtain ⟨py, px, hy, hx, hc, hon⟩ := collides.mp hcol
      exact hno ⟨py, px, hy, hx, hon, hc⟩
    exact hvf.trans (congrArg flagOf hcol)
  · rintro p (hp | hp | ⟨py, px, hp, -⟩)
    · exact Or.inl hp
    · exact Or.inr (Or.inl hp)
    · exact Or.inr (Or.inr ⟨py, px, hp⟩)

/-- Settles O26: a pixel that changes is covered, so it is within the bounds of the sprite; the draw is a function of the
coordinates modulo the grid and of what the two states share. -/
theorem anchorWrapsBodyClips : Obligations.AnchorWrapsBodyClips := by
  refine ⟨fun x y n s h => ⟨_, exec_opDxyn_of_fits x y h, fun py px hne => ?_⟩,
    fun x y n s s' h hi hmem hfont hfb hx hy => ?_⟩
  · obtain ⟨⟨hpx, hpy⟩, hc⟩ := (pixelOf_drawSprite_ne_iff s.fb (s.reg x) (s.reg y) _ py px).mp hne
    obtain ⟨hx, hx8, hy, hyn⟩ := hc.bounds
    rw [State.bytesAt_length] at hyn
    exact ⟨hx, hx8, hpx, hy, hyn, hpy⟩
  · have hbytes : s'.bytesAt s'.i.toNat n.toNat = s.bytesAt s.i.toNat n.toNat := by
      simp only [State.bytesAt, State.byteAt, hi, hmem, hfont]
    have hdrawn : s'.drawn x y n = s.drawn x y n := by
      rw [State.drawn, State.drawn, hbytes, hfb, drawSprite_congr hx hy]
    have h' : s'.SpriteFits n := by rw [State.SpriteFits, hi]; exact h
    refine ⟨_, _, exec_opDxyn_of_fits x y h, exec_opDxyn_of_fits x y h', congrArg Prod.fst hdrawn, ?_⟩
    calc _ = flagOf (s'.drawn x y n).2 := s'.setFb_setReg_reg _ _ _
      _ = flagOf (s.drawn x y n).2 := by rw [hdrawn]
      _ = _ := (s.setFb_setReg_reg _ _ _).symm

/-- Settles O27: with the registers put back the second draw is the same DrawSprite on the drawn framebuffer. -/
theorem drawTwiceRestores : Obligations.DrawTwiceRestores := by
  intro x y n s h
  refine ⟨_, _, exec_opDxyn_of_fits x y h, exec_opDxyn_of_fits x y h, drawSprite_twice s.fb _ _ _,
    fun hclear => ⟨?_, ?_⟩⟩
  · have hcol : (s.drawn x y n).2 = false := drawSprite_collides_of_clear hclear _ _ _
    exact (s.setFb_setReg_reg _ _ _).trans (congrArg flagOf hcol)
  · rw [State.advance_eq, State.setPc_reg, State.setFb_setReg_reg, flagOf_eq_one_iff]
    exact drawSprite_twice_collides_of_clear hclear (s.reg x) (s.reg y) _

end Sys2Proof.Machine
end

section
/-! Proofs about the key tests, the sound timer and the key wait (45_keypad_timers R231 to R237). -/

namespace Sys2Proof.Machine

/-! ### Frames -/

theorem OnlyChanges.refl (s : State) : OnlyChanges (fun _ => False) s s := by
  intro p _
  cases p <;> rfl

theorem onlyChanges_setSt (s : State) (b : Byte) : OnlyChanges (fun p => p = .st) s (s.setSt b) := by
  intro p hp
  cases p
  case st => exact absurd rfl hp
  all_goals rfl

theorem onlyChanges_setLatch (s : State) (k : Option (Fin 16)) : OnlyChanges (fun p => p = .latch) s (s.setLatch k) := by
  intro p hp
  cases p
  case latch => exact absurd rfl hp
  all_goals rfl

/-! ### Key tests (R232, R233) -/

theorem exec_opEx9E_of_lt {x : Reg} {s : State} (h : (s.reg x).toNat < 16) :
    exec (.opEx9E x) s = .next (s.skipIf s.key[(s.reg x).toNat]) := by
  simp only [exec, execEx9E, State.isDown_of_lt s _ h]

theorem exec_opExA1_of_lt {x : Reg} {s : State} (h : (s.reg x).toNat < 16) :
    exec (.opExA1 x) s = .next (s.skipIf !s.key[(s.reg x).toNat]) := by
  simp only [exec, execExA1, State.isDown_of_lt s _ h]

theorem exec_opEx9E_of_ge {x : Reg} {s : State} (h : 15 < (s.reg x).toNat) :
    exec (.opEx9E x) s = .next (s.setFault .invalidKey) := by
  simp only [exec, execEx9E, State.isDown_of_ge s _ (Nat.not_lt.mpr h), raise]

theorem exec_opExA1_of_ge {x : Reg} {s : State} (h : 15 < (s.reg x).toNat) :
    exec (.opExA1 x) s = .next (s.setFault .invalidKey) := by
  simp only [exec, execExA1, State.isDown_of_ge s _ (Nat.not_lt.mpr h), raise]

/-- Settles O28: both skip on the flag of key `V[x]` or on its negation, and raise when there is no such key. -/
theorem keyTestsSkip : Obligations.KeyTestsSkip := by
  refine ⟨encodedBy_lowByte 0xE 0x9E (by decide) (fun _ => rfl) fun op hf hk => by
      simp [decode_of_familyE hf, decodeFamilyE, hk],
    encodedBy_lowByte 0xE 0xA1 (by decide) (fun _ => rfl) fun op hf hk => by
      simp [decode_of_familyE hf, decodeFamilyE, hk],
    fun x s k hk => ?_, fun x s k hk => ?_, fun x s h => ⟨exec_opEx9E_of_ge h, exec_opExA1_of_ge h⟩⟩
  · exact exists_next_of_skipIf (exec_opEx9E_of_lt (hk ▸ k.isLt)) (by simp only [hk])
  · exact exists_next_of_skipIf (exec_opExA1_of_lt (hk ▸ k.isLt)) (by simp only [hk, Bool.not_eq_true'])

/-! ### The sound timer (R236, R255) -/

theorem exec_opFx18 (x : Reg) (s : State) : exec (.opFx18 x) s = .next (s.setSt (s.reg x)).advance := rfl

theorem soundOn_iff (s : State) : s.soundOn = true ↔ s.st.toNat ≠ 0 := by
  simp [State.soundOn, BitVec.toNat_eq]

/-- Settles O31: the execute phase writes `V[x]` to ST and leaves DT; the end of the STEP then ticks both, and a value of 1
is then 0. -/
theorem setSoundTimerThenTick : Obligations.SetSoundTimerThenTick := by
  refine ⟨encodedBy_familyF 0x18 (by decide) (fun _ => rfl) fun op hk => by simp [decodeFamilyF, hk],
    fun x s => ⟨_, exec_opFx18 x s, rfl, rfl, (onlyChanges_setSt s _).advance⟩, fun x op s u hu hop hd => ?_⟩
  have hfault : u.fault = none := stepsFrom_fault s hu
  have hexec : exec (decode op) u = .next (u.setSt (u.reg x)).advance := hd ▸ exec_opFx18 x u
  obtain ⟨t, hstep, -, hdt, hst⟩ := step_ticks_of_completes hu hop hexec hfault
  have hst' : t.st.toNat = (s.reg x).toNat - 1 := by rw [← stepsFrom_reg hu x]; exact hst
  refine ⟨t, hstep, hst', ?_, ?_⟩
  · rw [← stepsFrom_dt hu]; exact hdt
  · rw [soundOn_iff]; omega

/-! ### The key wait (R237) -/

theorem exec_opFx0A_of_none (x : Reg) {s : State} (h : s.latch = none) : exec (.opFx0A x) s = .next s := by
  simp only [exec, execFx0A, h]

theorem exec_opFx0A_of_some (x : Reg) {s : State} {k : Fin 16} (h : s.latch = some k) :
    exec (.opFx0A x) s = .next ((s.setReg x (BitVec.ofNat 8 k.val)).setLatch none).advance := by
  simp only [exec, execFx0A, h]

theorem keyByte_toNat (k : Fin 16) : (BitVec.ofNat 8 k.val).toNat = k.val := by
  rw [BitVec.toNat_ofNat]; omega

theorem stepsFrom_latch {s u : State} (h : s.StepsFrom u) : u.latch = s.latch := by rw [stepsFrom_eq s h]

theorem stepsFrom_pc {s u : State} (h : s.StepsFrom u) : u.pc = s.pc := by rw [stepsFrom_eq s h]

theorem keyWait_reg (s : State) (x : Reg) (k : Fin 16) :
    (((s.setReg x (BitVec.ofNat 8 k.val)).setLatch none).advance.reg x).toNat = k.val :=
  (congrArg BitVec.toNat (State.setReg_reg_same s x _)).trans (keyByte_toNat k)

/-- Settles O32: with no key latched the execute phase does nothing, and the STEP is `endOfStep` with WAIT set; with a key it
writes `V[x]`, the latch and PC, and the STEP adds `endOfStep` with WAIT clear. -/
theorem waitForKey : Obligations.WaitForKey := by
  refine ⟨encodedBy_familyF 0x0A (by decide) (fun _ => rfl) fun op hk => by simp [decodeFamilyF, hk],
    fun x s h => exec_opFx0A_of_none x h, fun x s k h => ?_, fun x op s u hu hop hd h => ?_,
    fun x op s u k hu hop hd h => ?_⟩
  · exact ⟨_, exec_opFx0A_of_some x h, keyWait_reg s x k, rfl, rfl,
      ((onlyChanges_setReg s x _).trans (onlyChanges_setLatch _ none)).advance⟩
  · have hlatch : u.latch = none := (stepsFrom_latch hu).trans h
    have hpc : u.pc = s.pc := stepsFrom_pc hu
    have hexec : exec (decode op) u = .next u := hd ▸ exec_opFx0A_of_none x hlatch
    have hstep : step s = .next (endOfStep true u) := by
      simpa [hd, waitAfter, hlatch] using step_of_completes hu hop hexec (stepsFrom_fault s hu)
    refine ⟨_, hstep, hpc, rfl, ?_, ?_, onlyChanges_endOfStep true u⟩
    · rw [← stepsFrom_dt hu]; exact tick_toNat u.dt
    · rw [← stepsFrom_st hu]; exact tick_toNat u.st
  · have hlatch : u.latch = some k := (stepsFrom_latch hu).trans h
    have hfault : u.fault = none := stepsFrom_fault s hu
    have hpc : u.pc = s.pc := stepsFrom_pc hu
    have hexec : exec (decode op) u = .next ((u.setReg x (BitVec.ofNat 8 k.val)).setLatch none).advance :=
      hd ▸ exec_opFx0A_of_some x hlatch
    have hwait : waitAfter (decode op) u = false := by rw [hd, waitAfter, hlatch]; rfl
    refine ⟨_, step_of_completes hu hop hexec hfault, keyWait_reg u x k, rfl, ?_, hwait, ?_, ?_⟩
    · exact congrArg (· + 2) hpc
    · rw [← stepsFrom_dt hu]; exact tick_toNat u.dt
    · rw [← stepsFrom_st hu]; exact tick_toNat u.st

end Sys2Proof.Machine
end

section
/-! Proofs about all instructions: the fault each raises (60_exceptions R271, R272) and the parts of the state each writes
(10_state R22 to R43). -/

namespace Sys2Proof.Machine

section

variable {i : Instr} {s t : State}

/-! ### An instruction with a fault of the table -/

theorem exec_of_guard {p : Prop} [Decidable p] {k k' : FaultKind} (h : (if p then some k' else none) = some k)
    (hp : p → exec i s = .next (s.setFault k')) : exec i s = .next (s.setFault k) := by
  obtain ⟨hp', hk⟩ := Option.ite_none_right_eq_some.mp h
  cases hk
  exact hp hp'

/-- An instruction for which the table names a fault raises it, and nothing else happens (R272). -/
theorem exec_of_faultOf_some {k : FaultKind} (h : faultOf i s = some k) : exec i s = .next (s.setFault k) := by
  cases i
  case op00EE => exact exec_of_guard h fun hsp => exec_op00EE_of_empty s (by omega)
  case op2nnn nnn => exact exec_of_guard h fun hsp => exec_op2nnn_of_full nnn s (by omega)
  case opDxyn x y n => exact exec_of_guard h fun ⟨hn, hi⟩ => exec_opDxyn_of_beyond x y hn hi
  case opEx9E x => exact exec_of_guard h exec_opEx9E_of_ge
  case opExA1 x => exact exec_of_guard h exec_opExA1_of_ge
  case opFx33 x => exact exec_of_guard h (exec_opFx33_of_ge x s)
  case opFx55 x => exact exec_of_guard h (exec_opFx55_of_ge x s)
  case opFx65 x => exact exec_of_guard h (exec_opFx65_of_ge x s)
  all_goals cases h

/-! ### An instruction without one: what it answers is within the parts that its rule names -/

/-- The memory list of the state has its canonical form. -/
def State.CanonicalMem (s : State) : Prop := Memory.wf s.font s.mem = true

/-- (Stated for `setRegs`: comparing states that hold the `Vector.ofFn` of a block load is costly.) -/
theorem State.canonicalMem_setRegs (s : State) (v : Vector Byte 16) (h : s.CanonicalMem) : (s.setRegs v).CanonicalMem := h

/-- The instruction answers a next state, has written only parts that its rule names, and has kept the canonical form of
memory. -/
def CompletesWithinParts (i : Instr) (s : State) : Prop :=
  ∃ t, exec i s = .next t ∧ OnlyChanges (MayWrite i s) s t ∧ (s.CanonicalMem → t.CanonicalMem)

/-- An instruction that ends with a write of PC completes within its parts if what it did before is within them. -/
theorem completes_of_setPc {c : StatePart → Prop} {u : State} {a : Word} (hu : OnlyChanges c s u)
    (h : exec i s = .next (u.setPc a)) (hm : s.CanonicalMem → u.CanonicalMem) (hc : ∀ p, c p → MayWrite i s p) :
    CompletesWithinParts i s := by
  refine ⟨_, h, (hu.trans (onlyChanges_setPc u a)).mono ?_, hm⟩
  rintro p (hp | rfl)
  · exact hc p hp
  · exact trivial

theorem completes_of_pc_only {a : Word} (h : exec i s = .next (s.setPc a)) : CompletesWithinParts i s :=
  completes_of_setPc (OnlyChanges.refl s) h id fun _ => False.elim

theorem completes_of_setReg {x : Reg} {b : Byte} (h : exec i s = .next (s.setReg x b).advance) (hx : MayWriteReg i x) :
    CompletesWithinParts i s :=
  completes_of_setPc (onlyChanges_setReg s x b) h id fun _ hp => hp ▸ hx

theorem completes_of_writeFlagThenReg {x : Reg} {flag b : Byte}
    (h : exec i s = .next (s.writeFlagThenReg flag x b).advance) (hx : MayWriteReg i x) (hf : MayWriteReg i Reg.VF) :
    CompletesWithinParts i s := by
  refine completes_of_setPc (onlyChanges_writeFlagThenReg s flag x b) h id ?_
  rintro _ (rfl | rfl)
  · exact hx
  · exact hf

theorem completes_of_setI {w : Word} (h : exec i s = .next (s.setI w).advance) (hi : MayWrite i s .i) :
    CompletesWithinParts i s :=
  completes_of_setPc (onlyChanges_setI s w) h id fun _ hp => hp ▸ hi

theorem completes_of_storeBytes {bs : List Byte} (h : exec i s = .next (s.storeBytes s.i.toNat bs).advance)
    (hfit : s.i.toNat + bs.length ≤ 4096) (hb : ∀ k < bs.length, MayWrite i s (.byte (s.i.toNat + k))) :
    CompletesWithinParts i s :=
  completes_of_setPc (onlyChanges_storeBytes s s.i.toNat bs) h (Memory.wf_writeBytes bs hfit)
    fun _ ⟨k, hk, hp⟩ => hp ▸ hb k hk

theorem not_of_guard_eq_none {p : Prop} [Decidable p] {k : FaultKind} (h : (if p then some k else none) = none) : ¬ p := by
  simpa only [ite_eq_right_iff, reduceCtorEq, imp_false] using h

/-- An instruction for which the table names no fault completes within its parts. -/
theorem completes_of_faultOf_none (h : faultOf i s = none) : CompletesWithinParts i s := by
  cases i
  case op1nnn | op3xkk | op4xkk | op5xy0 | op9xy0 | opBnnn | nop => exact completes_of_pc_only rfl
  case op6xkk | op7xkk | op8xy0 | op8xy1 | op8xy2 | op8xy3 | opFx07 => exact completes_of_setReg rfl rfl
  case op8xy4 | op8xy5 | op8xy6 | op8xy7 | op8xyE =>
    exact completes_of_writeFlagThenReg rfl (Or.inl rfl) (Or.inr rfl)
  case opAnnn nnn => exact completes_of_setI rfl (Or.inl ⟨nnn, rfl⟩)
  case opFx1E x => exact completes_of_setI rfl (Or.inr (Or.inl ⟨x, rfl⟩))
  case opFx29 x => exact completes_of_setI rfl (Or.inr (Or.inr ⟨x, rfl⟩))
  case op00E0 =>
    exact completes_of_setPc (onlyChanges_setFb s clearedFb) rfl id fun _ ⟨_, _, hp⟩ => hp ▸ Or.inl rfl
  case opFx15 x => exact completes_of_setPc (onlyChanges_setDt s _) rfl id fun _ hp => hp ▸ ⟨x, rfl⟩
  case opFx18 x => exact completes_of_setPc (onlyChanges_setSt s _) rfl id fun _ hp => hp ▸ ⟨x, rfl⟩
  case opCxkk x kk =>
    refine completes_of_setPc ((onlyChanges_setReg s x _).trans (onlyChanges_setDraws _ _)) (exec_opCxkk x kk s) id ?_
    rintro _ (rfl | rfl)
    · exact rfl
    · exact ⟨x, kk, rfl⟩
  case op00EE =>
    have hsp : 0 < s.sp.val := Nat.pos_of_ne_zero (not_of_guard_eq_none h)
    exact completes_of_setPc (onlyChanges_setStack_sp s _) (exec_op00EE_of_pos s hsp) id fun _ hp => hp ▸ Or.inl rfl
  case op2nnn nnn =>
    have hsp : s.sp.val < 16 := by have := not_of_guard_eq_none h; omega
    refine completes_of_setPc (onlyChanges_setStack_push s hsp _ _) (exec_op2nnn_of_lt nnn s hsp) id ?_
    rintro _ (rfl | rfl)
    · exact Or.inr ⟨nnn, rfl⟩
    · exact ⟨⟨nnn, rfl⟩, rfl⟩
  case opDxyn x y n =>
    have hfits : s.SpriteFits n := by have := not_of_guard_eq_none h; unfold State.SpriteFits; omega
    refine completes_of_setPc (onlyChanges_drawn s x y n) (exec_opDxyn_of_fits x y hfits) id ?_
    rintro _ (rfl | ⟨py, px, rfl, hc⟩)
    · exact rfl
    · exact Or.inr ⟨x, y, n, rfl, hc⟩
  case opEx9E x =>
    have hx : (s.reg x).toNat < 16 := by have := not_of_guard_eq_none h; omega
    exact completes_of_pc_only (exec_opEx9E_of_lt hx)
  case opExA1 x =>
    have hx : (s.reg x).toNat < 16 := by have := not_of_guard_eq_none h; omega
    exact completes_of_pc_only (exec_opExA1_of_lt hx)
  case opFx0A x =>
    cases hl : s.latch with
    | none => exact ⟨s, exec_opFx0A_of_none x hl, (OnlyChanges.refl s).mono fun _ => False.elim, id⟩
    | some k =>
      refine completes_of_setPc ((onlyChanges_setReg s x _).trans (onlyChanges_setLatch _ none))
        (exec_opFx0A_of_some x hl) id ?_
      rintro _ (rfl | rfl)
      · exact rfl
      · exact ⟨x, rfl⟩
  case opFx33 x =>
    have hi : s.i.toNat + 2 < 4096 := by have := not_of_guard_eq_none h; omega
    refine completes_of_storeBytes (exec_opFx33_of_lt x s hi) ?_ fun k hk => Or.inl ⟨⟨x, rfl⟩, ?_, ?_⟩
    all_goals simp only [bcdDigits_length] at *; omega
  case opFx55 x =>
    have hi : s.i.toNat + x.val < 4096 := by have := not_of_guard_eq_none h; omega
    refine completes_of_storeBytes (exec_opFx55_of_lt x s hi) ?_ fun k hk => Or.inr ⟨x, rfl, ?_, ?_⟩
    all_goals simp only [State.firstRegs_length] at *; omega
  case opFx65 x =>
    have hi : s.i.toNat + x.val < 4096 := by have := not_of_guard_eq_none h; omega
    exact completes_of_setPc (onlyChanges_loadRegs s x _) (exec_opFx65_of_lt x s hi)
      (s.canonicalMem_setRegs _) fun _ ⟨_, hk, hp⟩ => hp ▸ hk

/-! ### What an execute phase can be -/

theorem onlyChanges_setFault (s : State) (k : FaultKind) : OnlyChanges (fun p => p = .fault) s (s.setFault k) := by
  intro p hp
  cases p
  case fault => exact absurd rfl hp
  all_goals rfl

/-- An execute phase raises the fault of the table and does nothing else, or it raises none, stays within its parts and keeps
the canonical form of memory. -/
theorem exec_cases (i : Instr) (s : State) :
    (∃ k, faultOf i s = some k ∧ exec i s = .next (s.setFault k)) ∨
    (faultOf i s = none ∧ ∃ t, exec i s = .next t ∧ t.fault = s.fault ∧ OnlyChanges (MayWrite i s) s t ∧
      (s.CanonicalMem → t.CanonicalMem)) := by
  cases h : faultOf i s with
  | some k => exact Or.inl ⟨k, rfl, exec_of_faultOf_some h⟩
  | none =>
    obtain ⟨t, hexec, hframe, hmem⟩ := completes_of_faultOf_none h
    have notNamed : ¬ MayWrite i s .fault := not_not_intro h
    exact Or.inr ⟨rfl, t, hexec, hframe .fault notNamed, hframe, hmem⟩

/-- Settles O39: the two cases of `exec_cases`, from a state without a fault. -/
theorem instructionsRaiseExactlyTheirFault : Obligations.InstructionsRaiseExactlyTheirFault := by
  intro i s hs
  obtain ⟨k, hk, hexec⟩ | ⟨hnone, t, hexec, hfault, -⟩ := exec_cases i s
  · refine ⟨_, hexec, hk.symm, fun k' hk' => ?_⟩
    cases hk.symm.trans hk'; rfl
  · refine ⟨t, hexec, hfault.trans (hs.trans hnone.symm), fun k hk => ?_⟩
    cases hnone.symm.trans hk

/-- The frame of an execute phase. -/
theorem exec_frame (h : exec i s = .next t) : OnlyChanges (MayWrite i s) s t := by
  obtain ⟨k, hk, hexec⟩ | ⟨-, u, hexec, -, hframe, -⟩ := exec_cases i s
  · cases hexec.symm.trans h
    have named : MayWrite i s .fault := by rw [MayWrite, hk]; exact Option.some_ne_none k
    exact (onlyChanges_setFault s k).mono fun _ hp => hp ▸ named
  · cases hexec.symm.trans h
    exact hframe

theorem exec_keeps_canonicalMem (h : exec i s = .next t) (hs : s.CanonicalMem) : t.CanonicalMem := by
  obtain ⟨k, -, hexec⟩ | ⟨-, u, hexec, -, -, hmem⟩ := exec_cases i s
  · cases hexec.symm.trans h; exact hs
  · cases hexec.symm.trans h; exact hmem hs

end

/-- Settles O40: `exec_frame`. -/
theorem instructionsWriteOnlyTheirParts : Obligations.InstructionsWriteOnlyTheirParts := fun _ _ _ => exec_frame

end Sys2Proof.Machine
end

section
/-! Proofs about the whole STEP (40_step_cycle R120 to R133, 60_exceptions R272): what it can answer, and what
follows of it. -/

namespace Sys2Proof.Machine

section

variable {s u : State}

/-! ### What a STEP can answer -/

/-- The state that a STEP starts from, by the named updates. -/
theorem exists_eq_of_stepsFrom (h : s.StepsFrom u) : ∃ ops r, u = (s.setHostOps ops).setRnd r :=
  ⟨u.hostOps, u.rnd, stepsFrom_eq s h⟩

/-- A STEP that fetches is the execute phase and its end (R130). -/
theorem step_of_exec {v : State} {op : Word} (h : s.StepsFrom u) (hop : fetch s = some op)
    (hv : exec (decode op) u = .next v) : step s = .next (finish (decode op) u v) := by
  rw [step_of_stepsFrom s h, coreStep_of_fetch_some u (stepsFrom_fault s h) ((stepsFrom_fetch s h).trans hop)]
  simp [runOpcode, hv]

/-- A STEP that fetches raises the fault of the table or runs the instruction to its end. -/
theorem step_cases_of_fetch {op : Word} (h : s.StepsFrom u) (hop : fetch s = some op) :
    (∃ k, step s = .next (u.setFault k)) ∨
    ∃ v, exec (decode op) u = .next v ∧ v.fault = none ∧ step s = .next (endOfStep (waitAfter (decode op) u) v) := by
  obtain ⟨k, -, hexec⟩ | ⟨-, v, hexec, hfault, -⟩ := exec_cases (decode op) u
  · exact Or.inl ⟨k, (step_of_exec h hop hexec).trans (congrArg _ (finish_of_some u (State.setFault_fault u k)))⟩
  · have hv : v.fault = none := hfault.trans (stepsFrom_fault s h)
    exact Or.inr ⟨v, hexec, hv, step_of_completes h hop hexec hv⟩

/-- A STEP answers a next state: it raises a fault and does nothing else, or it runs the instruction that it fetched to its
end. -/
theorem step_cases_of_stepsFrom (h : s.StepsFrom u) :
    (∃ k, step s = .next (u.setFault k)) ∨
    ∃ op v, fetch s = some op ∧ exec (decode op) u = .next v ∧ v.fault = none ∧
      step s = .next (endOfStep (waitAfter (decode op) u) v) := by
  by_cases hpc : s.pc.toNat + 1 < 4096
  · obtain hk | ⟨v, hv⟩ := step_cases_of_fetch h (fetch_of_le s hpc)
    · exact Or.inl hk
    · exact Or.inr ⟨_, v, fetch_of_le s hpc, hv⟩
  · exact Or.inl ⟨_, step_of_fetch_beyond h (by omega)⟩

/-- Settles O41: of the two cases of a STEP only the first leaves a fault. -/
theorem faultingStepChangesOnlyFault : Obligations.FaultingStepChangesOnlyFault := by
  intro s u t k hu ht hk
  obtain ⟨k', hstep⟩ | ⟨op, v, -, -, hv, hstep⟩ := step_cases_of_stepsFrom hu
  · cases hstep.symm.trans ht; cases hk; rfl
  · cases hstep.symm.trans ht; cases hv.symm.trans hk

/-- Settles O33: the word is its two bytes; with no second byte in memory the STEP is `step_of_fetch_beyond`. -/
theorem fetchReadsTwoBytesAtPc : Obligations.FetchReadsTwoBytesAtPc :=
  ⟨fun s h => ⟨_, fetch_of_le s h, opcodeOfBytes_toNat _ _⟩, fun _ _ hu h => step_of_fetch_beyond hu (by omega)⟩

/-! ### The STEP as an equation (R130) -/

theorem tick_eq (b : Byte) : tick b = if b = 0 then 0 else b - 1 := by
  unfold tick
  split <;> split <;> bv_omega

theorem decode_of_decodeBytes_pair {hi lo : Byte} {i : Instr} (h : decodeBytes [hi, lo] = .ok (i, [])) :
    decode (opcodeOfBytes hi lo) = i := by
  cases h; rfl

/-- Settles O34: the execute phase answers a state, and the end of the STEP looks at its fault as the statement does. -/
theorem stepRunsDecodedInstruction : Obligations.StepRunsDecodedInstruction := by
  refine ⟨fun s u i hu hpc _ hi => ?_, fun s h => ⟨stepsFrom_of_live s h, step_of_live s h⟩,
    fun s r ops hops hp hf => ?_⟩
  · obtain ⟨v, hexec, -⟩ := instructionsRaiseExactlyTheirFault i u (stepsFrom_fault s hu)
    have hd := decode_of_decodeBytes_pair hi
    have hstep := step_of_exec hu (fetch_of_le s hpc) (hd ▸ hexec)
    rw [hstep, hd, hexec]
    cases hv : v.fault with
    | none => simp only [finish_of_none u hv, endOfStep, tick_eq, if_true, hv]
    | some k => simp [finish_of_some u hv, hv]
  · have hu : s.StepsFrom { s with hostOps := ops, rnd := some r } := ⟨hp, hf, Or.inr ⟨r, ops, hops, rfl⟩⟩
    exact ⟨hu, step_of_stepsFrom s hu⟩

/-! ### The timers (R128) -/

theorem exec_dt_of_ne {i : Instr} {s t : State} (h : exec i s = .next t) (hi : ∀ x, i ≠ .opFx15 x) : t.dt = s.dt :=
  exec_frame h .dt fun ⟨x, hx⟩ => hi x hx

theorem exec_st_of_ne {i : Instr} {s t : State} (h : exec i s = .next t) (hi : ∀ x, i ≠ .opFx18 x) : t.st = s.st :=
  exec_frame h .st fun ⟨x, hx⟩ => hi x hx

/-- Settles O36: a fault leaves both timers; a completed STEP ticks what the instruction left, which is another value than
before only for Fx15 and Fx18. -/
theorem timersTickOncePerStep : Obligations.TimersTickOncePerStep := by
  intro s u t op hu hop ht
  have hdt : u.dt = s.dt := stepsFrom_dt hu
  have hst : u.st = s.st := stepsFrom_st hu
  obtain ⟨k, hstep⟩ | ⟨v, hexec, hv, hstep⟩ := step_cases_of_fetch hu hop
  · cases hstep.symm.trans ht
    exact ⟨nofun, fun _ => ⟨hdt, hst⟩⟩
  · cases hstep.symm.trans ht
    refine ⟨fun _ => ⟨(tick_toNat v.dt).trans ?_, (tick_toNat v.st).trans ?_⟩, fun hne => absurd hv hne⟩
    · split
      next x hd =>
        rw [hd] at hexec
        cases hexec
        exact congrArg (fun b : Byte => b.toNat - 1) (stepsFrom_reg hu x)
      next hd => rw [exec_dt_of_ne hexec hd, hdt]
    · split
      next x hd =>
        rw [hd] at hexec
        cases hexec
        exact congrArg (fun b : Byte => b.toNat - 1) (stepsFrom_reg hu x)
      next hd => rw [exec_st_of_ne hexec hd, hst]

/-! ### The draw (R132, R178, R256) -/

theorem finish_draw (i : Instr) (s t : State) (r : Option Byte) (n : Nat) :
    ∃ r', finish i ((s.setRnd r).setDraws n) ((t.setRnd r).setDraws n) = ((finish i s t).setRnd r').setDraws n := by
  cases hf : t.fault with
  | none => exact ⟨none, by rw [finish_of_none s hf, finish_of_none (t := (t.setRnd r).setDraws n) _ hf]; rfl⟩
  | some k => exact ⟨r, by rw [finish_of_some s hf, finish_of_some (t := (t.setRnd r).setDraws n) _ hf]⟩

/-- Settles O38: the execute phases agree but for the draw by `exec_ignores_draw`, and so do the ends of the STEPs. -/
theorem drawMattersOnlyToRandom : Obligations.DrawMattersOnlyToRandom := by
  intro s u s' u' op hu hu' heq hop hne
  obtain ⟨r, n, rfl⟩ : ∃ r n, u' = (u.setRnd r).setDraws n := ⟨u'.rnd, u'.draws, heq⟩
  have hop' : fetch s' = some op := by
    rw [← stepsFrom_fetch s' hu', ← hop, ← stepsFrom_fetch s hu]; rfl
  obtain ⟨v, hexec, -⟩ := instructionsRaiseExactlyTheirFault (decode op) u (stepsFrom_fault s hu)
  have hexec' := exec_ignores_draw r n hne hexec
  obtain ⟨r', hfinish⟩ := finish_draw (decode op) u v r n
  refine ⟨_, _, step_of_exec hu hop hexec, step_of_exec hu' hop' hexec', ?_⟩
  rw [hfinish]; rfl

theorem step_of_opCxkk {op : Word} {x : Reg} {kk : Byte} (h : s.StepsFrom u) (hop : fetch s = some op)
    (hd : decode op = .opCxkk x kk) :
    ∃ t, step s = .next t ∧ t.reg x = u.draw &&& kk ∧ t.draws = s.draws + 1 ∧ t.pc = s.pc + 2 ∧ t.fault = none ∧
      t.rnd = none ∧ t.hostOps = u.hostOps := by
  have hfault : u.fault = none := stepsFrom_fault s h
  have hexec := hd ▸ exec_opCxkk x kk u
  refine ⟨_, step_of_completes h hop hexec hfault, State.setReg_reg_same u x _, ?_, ?_, hfault, rfl, rfl⟩
  all_goals obtain ⟨ops, r, rfl⟩ := exists_eq_of_stepsFrom h; rfl

/-- Settles O49: both clauses are the STEP of Cxkk, from a state whose draw is named and from one whose draw is free. -/
theorem stepTakesItsDraw : Obligations.StepTakesItsDraw := by
  refine ⟨fun s r ops op x kk hops hp hf hop hd => ?_, fun s op x kk hlive hrnd hop hd => ?_⟩
  · have hu : s.StepsFrom ((s.setHostOps ops).setRnd (some r)) := ⟨hp, hf, Or.inr ⟨r, ops, hops, rfl⟩⟩
    obtain ⟨t, hstep, hreg, -, hpc, hfault, hrnd, hops⟩ := step_of_opCxkk hu hop hd
    exact ⟨t, hstep, hreg, hpc, hfault, hrnd, hops⟩
  · obtain ⟨t, hstep, hreg, hdraws, hpc, -⟩ := step_of_opCxkk (stepsFrom_of_live s hlive) hop hd
    refine ⟨t, hstep, ?_, hdraws, hpc⟩
    rw [hreg, State.draw, hrnd, Option.getD_none]

end

/-! ### A call and its return (R142, R144) -/

/-- A return whose top of the stack is `a` completes with PC at `a` and one return address less. -/
theorem step_of_op00EE {t w : State} {op a : Word} {n : Nat} (h : t.StepsFrom w) (hop : fetch t = some op)
    (hd : decode op = .op00EE) (hsp : t.sp.val = n + 1) (hn : n < 16) (htop : t.stack[n] = a) :
    ∃ v, step t = .next v ∧ v.pc = a ∧ v.sp.val = n ∧ v.fault = none := by
  have hfault : w.fault = none := stepsFrom_fault t h
  obtain ⟨ops, r, rfl⟩ := exists_eq_of_stepsFrom h
  have hexec := hd ▸ exec_op00EE_of_pos ((t.setHostOps ops).setRnd r) (by simp [hsp])
  refine ⟨_, step_of_completes h hop hexec hfault, (getElem_congr_idx ?_).trans htop, ?_, hfault⟩
  · exact (congrArg (· - 1) hsp).trans (Nat.add_sub_cancel n 1)
  · exact (congrArg (· - 1) hsp).trans (Nat.add_sub_cancel n 1)

/-- Settles O37: the call leaves PC at its target, the bytes there as they were and the return address on top of the stack,
which the return at the target takes. -/
theorem callThenReturnComesBack : Obligations.CallThenReturnComesBack := by
  intro s u nnn hu hsp hpc hnnn hcall hret
  have hfault : u.fault = none := stepsFrom_fault s hu
  have hops : s.hostOps = [] → u.hostOps = [] := fun ho => by rw [stepsFrom_unscheduled hu ho, ho]
  obtain ⟨ops, r, rfl⟩ := exists_eq_of_stepsFrom hu
  obtain ⟨-, hpush, -⟩ := callPushesReturnAddress
  obtain ⟨v, hexec, hvpc, hvtop, hvsp, frame⟩ := hpush nnn ((s.setHostOps ops).setRnd r) hsp
  have hvfault : v.fault = none := (frame .fault (by simp)).trans hfault
  have hvops : v.hostOps = ops := frame .hostOps (by simp)
  have hvbytes : ∀ a, v.byteAt a = s.byteAt a := fun a => frame (.byte a) (by simp)
  have hstep := step_of_completes hu (fetch_of_le s hpc) (hcall ▸ hexec) hvfault
  refine ⟨_, hstep, hvpc, hvsp, hvops, fun ho => stepsFrom_of_live _ ⟨hvops.trans (hops ho), nofun, hvfault⟩,
    fun w hw => ?_⟩
  have hfetch := fetch_of_le v (hvpc ▸ hnnn)
  rw [hvpc, hvbytes, hvbytes] at hfetch
  obtain ⟨v', hstep', hpc', hsp', hfault'⟩ := step_of_op00EE hw hfetch hret hvsp hsp hvtop
  exact ⟨v', hstep', hpc', Fin.ext hsp', hfault'⟩

end Sys2Proof.Machine
end

section
/-! Proofs about the host's operations (47_host_operations R250 to R260, 10_state R45): RESET, LOAD, the key events, their
protocol, and all that one operation can answer. -/

namespace Sys2Proof.Machine

/-! ### The state after RESET (R33, R45, R251) -/

theorem initial_outside_font (font : Font) {a : Nat} (h : a < 0x050 ∨ 0x0A0 ≤ a) : Memory.initial font a = 0 := by
  have outside : ¬ (Config.fontBase ≤ a ∧ a < Config.fontBase + Config.fontSize) := by
    simp only [Config.fontBase, Config.fontSize]; omega
  exact if_neg outside

theorem initial_in_font (font : Font) (k : Fin 80) : Memory.initial font (0x050 + k.val) = font[k.val] := by
  have inside : Config.fontBase ≤ 0x050 + k.val ∧ 0x050 + k.val < Config.fontBase + Config.fontSize := by
    simp only [Config.fontBase, Config.fontSize]; omega
  have offset : 0x050 + k.val - Config.fontBase = k.val := Nat.add_sub_cancel_left _ _
  rw [Memory.initial, if_pos inside, offset, Vector.getElem?_eq_getElem k.isLt, Option.getD_some]

/-- Settles O44: memory is what unlisted addresses read as, and the other pieces are constants. -/
theorem resetContents : Obligations.ResetContents :=
  ⟨fun font => ⟨fun _ => initial_outside_font font, initial_in_font font, rfl, fun k => Vector.getElem_replicate k.isLt, rfl,
    rfl, fun py px => pixelOf_cleared py px, fun k => Vector.getElem_replicate k.isLt, rfl⟩, rfl⟩

section

variable {s : State}

theorem step_of_reset {ops : List HostOp} (h : s.hostOps = .reset :: ops) :
    step s = .next (s.setHostOps ops).resetCore := step_of_scheduled s h

/-- Settles O46: `State.resetCore` is the reset state but for the schedule and the count of draws. -/
theorem resetOperationRestoresAll : Obligations.ResetOperationRestoresAll := fun _ _ => step_of_reset

/-! ### The operations other than RESET (R257, R259) -/

theorem performOp_of_ne_reset {op : HostOp} (h : op ≠ .reset) (s : State) : ∃ r, performOp op s = whenLive s r := by
  cases op
  case reset => exact absurd rfl h
  all_goals exact ⟨_, rfl⟩

/-- Settles O42: all operations but RESET go through `whenLive`, which leaves a faulted core; RESET writes FAULT. -/
theorem faultedCoreIsFrozen : Obligations.FaultedCoreIsFrozen := by
  refine fun s k hk hp => ⟨fun ho => ?_, fun op ops ho hne => ?_, fun ops ho => ⟨_, step_of_reset ho, rfl⟩⟩
  · rw [step_unscheduled s ho, whenLive_of_fault s _ hp hk]
  · obtain ⟨r, hr⟩ := performOp_of_ne_reset hne (s.setHostOps ops)
    rw [step_of_scheduled s ho, hr]
    exact whenLive_of_fault (s.setHostOps ops) r hp hk

/-- An operation scheduled on a core that runs (R250). -/
theorem step_of_load {bytes : List Byte} {ops : List HostOp} (h : s.hostOps = .load bytes :: ops)
    (hp : s.phase ≠ .beforeReset) (hf : s.fault = none) : step s = loadRom bytes (s.setHostOps ops) :=
  (step_of_scheduled s h).trans (whenLive_of_live (s.setHostOps ops) _ hp hf)

theorem step_of_keyDown {k : Nat} {ops : List HostOp} (h : s.hostOps = .keyDown k :: ops)
    (hp : s.phase ≠ .beforeReset) (hf : s.fault = none) : step s = keyDown k (s.setHostOps ops) :=
  (step_of_scheduled s h).trans (whenLive_of_live (s.setHostOps ops) _ hp hf)

theorem step_of_keyUp {k : Nat} {ops : List HostOp} (h : s.hostOps = .keyUp k :: ops)
    (hp : s.phase ≠ .beforeReset) (hf : s.fault = none) : step s = keyUp k (s.setHostOps ops) :=
  (step_of_scheduled s h).trans (whenLive_of_live (s.setHostOps ops) _ hp hf)

/-! ### Frames -/

theorem onlyChanges_setHostOps (s : State) (ops : List HostOp) :
    OnlyChanges (fun p => p = .hostOps) s (s.setHostOps ops) := by
  intro p hp
  cases p
  case hostOps => exact absurd rfl hp
  all_goals rfl

theorem onlyChanges_setPhase (s : State) (q : HostPhase) : OnlyChanges (fun p => p = .phase) s (s.setPhase q) := by
  intro p hp
  cases p
  case phase => exact absurd rfl hp
  all_goals rfl

theorem onlyChanges_setKey (s : State) (k : Fin 16) (d : Bool) : OnlyChanges (fun p => p = .key k) s (s.setKey k d) := by
  intro p hp
  cases p
  case key j => exact (s.setKey_get k j d).trans (if_neg fun hj => hp (congrArg _ hj))
  all_goals rfl

/-! ### LOAD (R252) -/

theorem loadRom_of_le {bytes : List Byte} (hp : s.phase = .afterReset) (h : bytes.length ≤ 3584) :
    loadRom bytes s = .next ((s.storeBytes 0x200 bytes).setPhase .loaded) := by
  rw [loadRom, if_pos hp]; exact if_neg (Nat.not_lt.mpr h)

theorem loadRom_of_gt {bytes : List Byte} (hp : s.phase = .afterReset) (h : 3584 < bytes.length) :
    loadRom bytes s = .next (s.setFault .romTooLarge) := by
  rw [loadRom, if_pos hp]; exact if_pos h

theorem loadRom_of_ne {bytes : List Byte} (hp : s.phase ≠ .afterReset) : loadRom bytes s = .refused .loadOutOfProtocol :=
  if_neg hp

/-- Settles O47: a LOAD that fits stores the block at 0x200 and moves `phase`; a longer one only raises. -/
theorem loadCopiesRom : Obligations.LoadCopiesRom := by
  refine ⟨fun s bytes ops ho hp hf hle => ?_, fun s bytes ops ho hp hf hgt => ?_⟩
  all_goals have hstep := step_of_load ho (hp ▸ nofun) hf
  · have frame := ((onlyChanges_setHostOps s ops).trans (onlyChanges_storeBytes _ 0x200 bytes)).trans
      (onlyChanges_setPhase _ .loaded)
    refine ⟨_, hstep.trans (loadRom_of_le hp hle), fun k hk => ?_, hf, rfl, frame.mono ?_⟩
    · rw [State.setPhase_byteAt, State.storeBytes_byteAt _ _ hk, List.getD_eq_getElem _ _ hk, List.getElem?_eq_getElem hk]
    · rintro p ((hops | hbyte) | hphase)
      · exact Or.inr (Or.inl hops)
      · exact Or.inl hbyte
      · exact Or.inr (Or.inr hphase)
  · exact hstep.trans (loadRom_of_gt hp hgt)

/-! ### Key events (R253, R254) -/

theorem keyDown_of_key (k : Fin 16) (s : State) : keyDown k.val s = .next ((s.setKey k true).setLatch (some k)) :=
  dif_pos k.isLt

theorem keyUp_of_key (k : Fin 16) (s : State) :
    keyUp k.val s = .next ((s.setKey k false).setLatch (if s.latch = some k then none else s.latch)) :=
  dif_pos k.isLt

theorem keyDown_of_ge {k : Nat} (h : 15 < k) (s : State) : keyDown k s = .next (s.setFault .invalidKey) :=
  dif_neg (Nat.not_lt.mpr h)

theorem keyUp_of_ge {k : Nat} (h : 15 < k) (s : State) : keyUp k s = .next (s.setFault .invalidKey) :=
  dif_neg (Nat.not_lt.mpr h)

/-- A key event writes the flag of its key and the latch. -/
theorem onlyChanges_keyEvent (s : State) (ops : List HostOp) (k : Fin 16) (d : Bool) (l : Option (Fin 16)) :
    OnlyChanges (fun p => p = .key k ∨ p = .latch ∨ p = .hostOps) s (((s.setHostOps ops).setKey k d).setLatch l) := by
  refine (((onlyChanges_setHostOps s ops).trans (onlyChanges_setKey _ k d)).trans (onlyChanges_setLatch _ l)).mono ?_
  rintro p ((hops | hkey) | hlatch)
  · exact Or.inr (Or.inr hops)
  · exact Or.inl hkey
  · exact Or.inr (Or.inl hlatch)

theorem setKey_get_same (s : State) (k : Fin 16) (d : Bool) : (s.setKey k d).key[k.val] = d :=
  (s.setKey_get k k d).trans (if_pos rfl)

/-- Settles O48: a press and a release are the two writes of `onlyChanges_keyEvent`; above 15 both only raise. -/
theorem keyEventsMoveFlagAndLatch : Obligations.KeyEventsMoveFlagAndLatch := by
  refine ⟨fun s k ops ho hp hf => ?_, fun s k ops ho hp hf => ?_, fun s k ops hk ho hp hf => ?_⟩
  · exact ⟨_, (step_of_keyDown ho hp hf).trans (keyDown_of_key k _), setKey_get_same _ k true, rfl, rfl,
      onlyChanges_keyEvent s ops k _ _⟩
  · exact ⟨_, (step_of_keyUp ho hp hf).trans (keyUp_of_key k _), setKey_get_same _ k false, fun h => if_pos h,
      fun h => if_neg h, rfl, onlyChanges_keyEvent s ops k _ _⟩
  · rcases ho with ho | ho
    · exact (step_of_keyDown ho hp hf).trans (keyDown_of_ge hk _)
    · exact (step_of_keyUp ho hp hf).trans (keyUp_of_ge hk _)

/-! ### The protocol (R257) -/

/-- Settles O50: `whenLive` refuses before the first RESET and LOAD refuses out of its phase; the completed LOAD and the end of
a STEP write `phase`. -/
theorem outOfProtocolIsRefused : Obligations.OutOfProtocolIsRefused := by
  refine ⟨fun s ho hp => ?_, fun s op ops ho hne hp => ?_, fun s bytes ops ho hf hp => ?_, fun s t bytes ops ho ht hf => ?_,
    fun s u t hu ht hf => ?_⟩
  · rw [step_unscheduled s ho, whenLive_before s _ hp]
  · obtain ⟨r, hr⟩ := performOp_of_ne_reset hne (s.setHostOps ops)
    rw [step_of_scheduled s ho, hr]
    exact whenLive_before (s.setHostOps ops) r hp
  · have hbefore : s.phase ≠ .beforeReset := by rcases hp with hp | hp <;> rw [hp] <;> nofun
    have hafter : s.phase ≠ .afterReset := by rcases hp with hp | hp <;> rw [hp] <;> nofun
    exact (step_of_load ho hbefore hf).trans (loadRom_of_ne hafter)
  · rw [step_of_scheduled s ho] at ht
    obtain ⟨-, ⟨⟨k, hk⟩, rfl⟩ | ⟨-, hload⟩⟩ := whenLive_cases _ ht
    · cases hk.symm.trans hf
    · obtain ⟨-, ⟨-, rfl⟩ | ⟨-, rfl⟩⟩ := loadRom_cases _ hload
      · cases hf
      · rfl
  · obtain ⟨k, hstep⟩ | ⟨op, v, -, -, -, hstep⟩ := step_cases_of_stepsFrom hu
    · cases hstep.symm.trans ht; cases hf
    · cases hstep.symm.trans ht; rfl

/-! ### All that one operation can answer -/

/-- The states that an operation can answer from `s`: the state after a RESET; a faulted core, unchanged; a fault raised, and
nothing else; a STEP, a LOAD or a key event that completes. -/
inductive StepAnswers (s : State) : State → Prop
  | reset (ops : List HostOp) : StepAnswers s (s.setHostOps ops).resetCore
  | frozen (ops : List HostOp) : StepAnswers s (s.setHostOps ops)
  | raised (ops : List HostOp) (r : Option Byte) (k : FaultKind) : StepAnswers s (((s.setHostOps ops).setRnd r).setFault k)
  | completed {u v : State} {op : Word} (hu : s.StepsFrom u) (hop : fetch s = some op) (hexec : exec (decode op) u = .next v) :
      StepAnswers s (endOfStep (waitAfter (decode op) u) v)
  | loaded (ops : List HostOp) {bytes : List Byte} (hp : s.phase = .afterReset) (hle : bytes.length ≤ 3584) :
      StepAnswers s (((s.setHostOps ops).storeBytes 0x200 bytes).setPhase .loaded)
  | keyMoved (ops : List HostOp) (k : Fin 16) (d : Bool) (l : Option (Fin 16)) :
      StepAnswers s (((s.setHostOps ops).setKey k d).setLatch l)

theorem stepAnswers_of_stepsFrom {u t : State} (hu : s.StepsFrom u) (ht : step s = .next t) : StepAnswers s t := by
  obtain ⟨k, hstep⟩ | ⟨op, v, hop, hexec, -, hstep⟩ := step_cases_of_stepsFrom hu
  · cases hstep.symm.trans ht
    obtain ⟨ops, r, rfl⟩ := exists_eq_of_stepsFrom hu
    exact .raised ops r k
  · cases hstep.symm.trans ht
    exact .completed hu hop hexec

theorem stepAnswers_of_keyDown {k : Nat} {ops : List HostOp} {t : State} (h : keyDown k (s.setHostOps ops) = .next t) :
    StepAnswers s t := by
  by_cases hk : k < 16
  · cases (keyDown_of_key ⟨k, hk⟩ _).symm.trans h; exact .keyMoved ops _ _ _
  · cases (keyDown_of_ge (by omega) _).symm.trans h; exact .raised ops s.rnd _

theorem stepAnswers_of_keyUp {k : Nat} {ops : List HostOp} {t : State} (h : keyUp k (s.setHostOps ops) = .next t) :
    StepAnswers s t := by
  by_cases hk : k < 16
  · cases (keyUp_of_key ⟨k, hk⟩ _).symm.trans h; exact .keyMoved ops _ _ _
  · cases (keyUp_of_ge (by omega) _).symm.trans h; exact .raised ops s.rnd _

theorem stepAnswers_of_loadRom {bytes : List Byte} {ops : List HostOp} {t : State}
    (h : loadRom bytes (s.setHostOps ops) = .next t) : StepAnswers s t := by
  obtain ⟨hp, ⟨-, rfl⟩ | ⟨hle, rfl⟩⟩ := loadRom_cases _ h
  · exact .raised ops s.rnd _
  · exact .loaded ops hp hle

/-- Every operation that answers a next state answers one of these. -/
theorem step_answers {t : State} (h : step s = .next t) : StepAnswers s t := by
  cases ho : s.hostOps with
  | nil =>
    have ht := h
    rw [step_unscheduled s ho] at ht
    obtain ⟨hp, ⟨-, rfl⟩ | ⟨hf, -⟩⟩ := whenLive_cases s ht
    · exact .frozen t.hostOps
    · exact stepAnswers_of_stepsFrom (stepsFrom_of_live s ⟨ho, hp, hf⟩) h
  | cons op ops =>
    have ht := h
    rw [step_of_scheduled s ho] at ht
    cases op
    case reset => cases ht; exact .reset ops
    all_goals
      obtain ⟨hp, ⟨-, rfl⟩ | ⟨hf, ht⟩⟩ := whenLive_cases _ ht
      · exact .frozen ops
    case load.inr => exact stepAnswers_of_loadRom ht
    case keyDown.inr => exact stepAnswers_of_keyDown ht
    case keyUp.inr => exact stepAnswers_of_keyUp ht
    case step.inr => exact stepAnswers_of_stepsFrom ⟨hp, hf, Or.inr ⟨_, ops, ho, rfl⟩⟩ h

/-- No operation writes FONT (R9). -/
theorem step_font {t : State} (h : step s = .next t) : t.font = s.font := by
  cases step_answers h
  case completed hu hop hexec =>
    obtain ⟨ops, r, rfl⟩ := exists_eq_of_stepsFrom hu
    exact exec_frame hexec .font id
  all_goals rfl

/-- Settles O45: `step_font`; RESET is the reset state of the state's own FONT, whose bytes and whose surroundings are those of
O44. -/
theorem fontIsAParameter : Obligations.FontIsAParameter := by
  refine ⟨fun _ _ => step_font, fun font s ops ho => ?_⟩
  have ho' : ({ s with font := font } : State).hostOps = .reset :: ops := ho
  refine ⟨_, _, step_of_reset ho, step_of_reset ho', rfl, initial_in_font font, fun a ha => ?_⟩
  exact (initial_outside_font font ha).trans (initial_outside_font s.font ha).symm

/-! ### No operation stops but by a breach of the protocol -/

theorem step_of_stepsFrom_answers {u : State} (hu : s.StepsFrom u) : ∃ t, step s = .next t := by
  obtain ⟨k, hstep⟩ | ⟨op, v, -, -, -, hstep⟩ := step_cases_of_stepsFrom hu
  · exact ⟨_, hstep⟩
  · exact ⟨_, hstep⟩

theorem keyDown_answers (k : Nat) (s : State) : ∃ t, keyDown k s = .next t := by
  by_cases hk : k < 16
  · exact ⟨_, keyDown_of_key ⟨k, hk⟩ s⟩
  · exact ⟨_, keyDown_of_ge (by omega) s⟩

theorem keyUp_answers (k : Nat) (s : State) : ∃ t, keyUp k s = .next t := by
  by_cases hk : k < 16
  · exact ⟨_, keyUp_of_key ⟨k, hk⟩ s⟩
  · exact ⟨_, keyUp_of_ge (by omega) s⟩

theorem loadRom_answers {bytes : List Byte} (hp : s.phase = .afterReset) : ∃ t, loadRom bytes s = .next t := by
  by_cases hle : bytes.length ≤ 3584
  · exact ⟨_, loadRom_of_le hp hle⟩
  · exact ⟨_, loadRom_of_gt hp (by omega)⟩

/-- On a core that runs, only a LOAD out of its phase is refused. -/
theorem step_of_running (hp : s.phase ≠ .beforeReset) (hf : s.fault = none) :
    (∃ t, step s = .next t) ∨
    step s = .refused .loadOutOfProtocol ∧ s.phase ≠ .afterReset ∧ ∃ bytes ops, s.hostOps = .load bytes :: ops := by
  match ho : s.hostOps with
  | [] => exact Or.inl (step_of_stepsFrom_answers (stepsFrom_of_live s ⟨ho, hp, hf⟩))
  | .reset :: ops => exact Or.inl ⟨_, step_of_reset ho⟩
  | .step r :: ops => exact Or.inl (step_of_stepsFrom_answers ⟨hp, hf, Or.inr ⟨r, ops, ho, rfl⟩⟩)
  | .keyDown k :: ops => exact Or.inl (step_of_keyDown ho hp hf ▸ keyDown_answers k _)
  | .keyUp k :: ops => exact Or.inl (step_of_keyUp ho hp hf ▸ keyUp_answers k _)
  | .load bytes :: ops =>
    by_cases hafter : s.phase = .afterReset
    · exact Or.inl (step_of_load ho hp hf ▸ loadRom_answers hafter)
    · exact Or.inr ⟨(step_of_load ho hp hf).trans (loadRom_of_ne hafter), hafter, bytes, ops, rfl⟩

/-- Settles O55: a core that runs is `step_of_running`; a faulted one is O42, and one before its first RESET is O50. -/
theorem onlyProtocolBreachesStop : Obligations.OnlyProtocolBreachesStop := by
  intro s
  obtain ⟨refusedFree, refusedOp, -⟩ := outOfProtocolIsRefused
  by_cases hp : s.phase = .beforeReset
  · match ho : s.hostOps with
    | [] => exact Or.inr (Or.inl ⟨refusedFree s ho hp, hp⟩)
    | op :: ops =>
      by_cases hop : op = .reset
      · exact Or.inl ⟨_, step_of_reset (hop ▸ ho)⟩
      · exact Or.inr (Or.inl ⟨refusedOp s op ops ho hop hp, hp⟩)
  · cases hf : s.fault with
    | none => exact (step_of_running hp hf).imp_right Or.inr
    | some k =>
      obtain ⟨frozenFree, frozenOp, -⟩ := faultedCoreIsFrozen s k hf hp
      match ho : s.hostOps with
      | [] => exact Or.inl ⟨_, frozenFree ho⟩
      | op :: ops =>
        by_cases hop : op = .reset
        · exact Or.inl ⟨_, step_of_reset (hop ▸ ho)⟩
        · exact Or.inl ⟨_, frozenOp op ops ho hop⟩

end

end Sys2Proof.Machine
end

section
/-! Proofs of the invariants (10_state R27, R29, R41, R49, and the model's own canonical form of memory). -/

namespace Sys2Proof.Machine

/-! ### The canonical form of memory -/

/-- Settles O54: an operation leaves the list, empties it, or writes a block inside memory: the ROM, or what an instruction
stores. -/
theorem stepKeepsCanonicalMemory : Obligations.StepKeepsCanonicalMemory := by
  intro s t hs ht
  cases step_answers ht
  case reset => exact Memory.wf_reset
  case completed u v op hu hop hexec =>
    obtain ⟨ops, r, rfl⟩ := exists_eq_of_stepsFrom hu
    have hv : v.CanonicalMem := exec_keeps_canonicalMem hexec hs
    exact hv
  case loaded hp hle => exact Memory.wf_writeBytes _ (Nat.add_le_add_left hle 0x200) hs
  all_goals exact hs

/-! ### PC and the return addresses after an execute phase (R26, R27) -/

section

variable {i : Instr} {s t : State}

theorem add_two_toNat_le {w : Word} (h : w.toNat + 1 < 4096) : (w + 2).toNat ≤ 0x1000 := by bv_omega

theorem skipIf_pc_toNat_le (c : Bool) (h : s.pc.toNat + 1 < 4096) : (s.skipIf c).pc.toNat ≤ 0x10FE := by
  rw [State.skipIf_pc]
  split <;> bv_omega

theorem top_toNat_le (hr : s.ReturnsBounded) (h : 0 < s.sp.val) : (s.stack[s.sp.val - 1]).toNat ≤ 0x1000 :=
  hr ⟨s.sp.val - 1, by omega⟩ (Nat.sub_lt h Nat.one_pos)

/-- An instruction that checks its addresses first keeps a bound on PC if its writes do. -/
theorem guarded_pc_toNat_le {c : Prop} [Decidable c] {k : FaultKind} {u : State} {n : Nat} (hs : s.pc.toNat ≤ n)
    (hu : u.pc.toNat ≤ n) (h : (if c then raise k s else .next u) = .next t) : t.pc.toNat ≤ n := by
  split at h <;> cases h
  · exact hs
  · exact hu

/-- An instruction leaves PC where it was, at one of the next two instructions, at a jump's target, whose largest is 0xFFF +
0xFF, or at a live return address. -/
theorem exec_pc_toNat_le (h : exec i s = .next t) (hpc : s.pc.toNat + 1 < 4096) (hr : s.ReturnsBounded) :
    t.pc.toNat ≤ 0x10FE := by
  have stays : s.pc.toNat ≤ 0x10FE := by omega
  have advances : (s.pc + 2).toNat ≤ 0x10FE := (add_two_toNat_le hpc).trans (by decide)
  cases i
  case op3xkk | op4xkk | op5xy0 | op9xy0 => cases h; exact skipIf_pc_toNat_le _ hpc
  case opEx9E x =>
    by_cases hx : (s.reg x).toNat < 16
    · rw [exec_opEx9E_of_lt hx] at h; cases h; exact skipIf_pc_toNat_le _ hpc
    · rw [exec_opEx9E_of_ge (by omega)] at h; cases h; exact stays
  case opExA1 x =>
    by_cases hx : (s.reg x).toNat < 16
    · rw [exec_opExA1_of_lt hx] at h; cases h; exact skipIf_pc_toNat_le _ hpc
    · rw [exec_opExA1_of_ge (by omega)] at h; cases h; exact stays
  case op1nnn nnn => cases h; exact (addressOf_toNat nnn).trans_le (by omega)
  case opBnnn nnn => cases h; exact (addressOf_add_widen_toNat nnn (s.reg 0)).trans_le (by omega)
  case op2nnn nnn =>
    by_cases hsp : s.sp.val < 16
    · rw [exec_op2nnn_of_lt nnn s hsp] at h; cases h; exact (addressOf_toNat nnn).trans_le (by omega)
    · rw [exec_op2nnn_of_full nnn s hsp] at h; cases h; exact stays
  case op00EE =>
    by_cases hsp : 0 < s.sp.val
    · rw [exec_op00EE_of_pos s hsp] at h; cases h; exact (top_toNat_le hr hsp).trans (by decide)
    · rw [exec_op00EE_of_empty s hsp] at h; cases h; exact stays
  case opFx0A x =>
    cases hl : s.latch with
    | none => rw [exec_opFx0A_of_none x hl] at h; cases h; exact stays
    | some k => rw [exec_opFx0A_of_some x hl] at h; cases h; exact advances
  case opDxyn | opFx33 | opFx55 => exact guarded_pc_toNat_le stays (by exact advances) h
  case opFx65 x =>
    have hnext : (s.loadRegs x s.i.toNat).pcn.toNat ≤ 0x10FE := by rwa [State.loadRegs_pcn]
    exact guarded_pc_toNat_le stays hnext h
  all_goals cases h; exact advances

/-- Live return addresses stay bounded when no slot is written and SP does not rise. -/
theorem State.ReturnsBounded.of_slots (hr : s.ReturnsBounded) (hsp : t.sp.val ≤ s.sp.val)
    (hstack : ∀ k : Fin 16, t.stack[k.val] = s.stack[k.val]) : t.ReturnsBounded := fun k hk =>
  hstack k ▸ hr k (by omega)

/-- A call writes the slot of SP, with the address after itself, and raises SP by one. -/
theorem returnsBounded_of_push (hr : s.ReturnsBounded) {a : Word} (ha : a.toNat ≤ 0x1000) (hlt : s.sp.val < 16)
    (htop : t.stack[s.sp.val] = a) (hsp : t.sp.val = s.sp.val + 1)
    (hstack : ∀ k : Fin 16, k.val ≠ s.sp.val → t.stack[k.val] = s.stack[k.val]) : t.ReturnsBounded := by
  intro k hk
  by_cases hks : k.val = s.sp.val
  · obtain rfl : k = ⟨s.sp.val, hlt⟩ := Fin.ext hks
    exact htop ▸ ha
  · exact hstack k hks ▸ hr k (by omega)

/-- The live return addresses after an instruction are those before it, but for the one that a call pushes. -/
theorem exec_returnsBounded (h : exec i s = .next t) (hpc : s.pc.toNat + 1 < 4096) (hr : s.ReturnsBounded) :
    t.ReturnsBounded := by
  have slots (hi : ∀ nnn, i ≠ .op2nnn nnn) (k : Fin 16) : t.stack[k.val] = s.stack[k.val] :=
    exec_frame h (.slot k) fun ⟨⟨nnn, hnnn⟩, _⟩ => hi nnn hnnn
  cases i
  case op2nnn nnn =>
    by_cases hsp : s.sp.val < 16
    · obtain ⟨-, hpush, -⟩ := callPushesReturnAddress
      obtain ⟨t', hexec, -, htop, hsp', frame⟩ := hpush nnn s hsp
      cases hexec.symm.trans h
      refine returnsBounded_of_push hr (add_two_toNat_le hpc) hsp htop hsp' fun k hk => frame (.slot k) ?_
      simpa [Fin.ext_iff] using hk
    · rw [exec_op2nnn_of_full nnn s hsp] at h; cases h; exact hr
  case op00EE =>
    refine hr.of_slots ?_ (slots nofun)
    by_cases hsp : 0 < s.sp.val
    · rw [exec_op00EE_of_pos s hsp] at h; cases h; exact Nat.sub_le _ 1
    · rw [exec_op00EE_of_empty s hsp] at h; cases h; exact le_rfl
  all_goals
    have hsp : t.sp = s.sp := exec_frame h .sp (by simp [MayWrite])
    exact hr.of_slots (by rw [hsp]) (slots nofun)

end

/-! ### Well-formed states (R49) -/

/-- Settles O53: every condition holds of the constants of the reset state. -/
theorem resetIsWellFormed : Obligations.ResetIsWellFormed := fun _ =>
  ⟨Memory.wf_reset, (by decide : (0x0200 : Word).toNat ≤ 0x10FE), nofun, nofun⟩

/-- A STEP that completes with WAIT set has run an Fx0A that found no key: the core is as it was, with PC at that Fx0A. -/
theorem waitsAtKeyWait_of_completed {s u v : State} {op : Word} (hu : s.StepsFrom u) (hop : fetch s = some op)
    (hexec : exec (decode op) u = .next v) : (endOfStep (waitAfter (decode op) u) v).WaitsAtKeyWait := by
  intro hwait
  obtain ⟨hlatch, x, hd⟩ := waitAfter_eq_true_iff.mp hwait
  rw [hd, exec_opFx0A_of_none x hlatch] at hexec
  cases hexec
  exact ⟨rfl, op, x, (stepsFrom_fetch s hu).trans hop, hd⟩

/-- Settles O52: RESET is O53; a STEP that completes is the lemmas about the execute phase; a LOAD is shut out by the phase
while WAIT is set; every other answer has the same PC, memory, stack, WAIT and phase. -/
theorem stepKeepsWellFormed : Obligations.StepKeepsWellFormed := by
  intro s t hs ht
  have hmem := stepKeepsCanonicalMemory s t hs.mem ht
  cases step_answers ht
  case reset =>
    have hreset := resetIsWellFormed s.font
    exact ⟨hmem, hreset.pc, hreset.returns, hreset.waits⟩
  case completed u v op hu hop hexec =>
    have hwaits := waitsAtKeyWait_of_completed hu hop hexec
    obtain ⟨hpc, -⟩ := fetch_eq_some s hop
    obtain ⟨ops, r, rfl⟩ := exists_eq_of_stepsFrom hu
    have hvpc : v.pc.toNat ≤ 0x10FE := exec_pc_toNat_le hexec hpc hs.returns
    have hvreturns : v.ReturnsBounded := exec_returnsBounded hexec hpc hs.returns
    exact ⟨hmem, hvpc, hvreturns, hwaits⟩
  case loaded hp hle =>
    refine ⟨hmem, hs.pc, hs.returns, fun hwait => ?_⟩
    obtain ⟨hphase, -⟩ := hs.waits hwait
    cases hp.symm.trans hphase
  all_goals exact ⟨hmem, hs.pc, hs.returns, hs.waits⟩

end Sys2Proof.Machine
end

section
/-! Proofs about the outputs (47_host_operations R255, 60_exceptions R271). -/

namespace Sys2Proof.Machine

/-! ### The framebuffer output -/

theorem rowsValue_testBit (rows : List PixelRow) (py : Nat) {px : Nat} (hx : px < 64) :
    (rowsValue rows).testBit (py * 64 + px) = (rows[py]?.getD 0).getLsbD px := by
  induction rows generalizing py with
  | nil => simp [rowsValue]
  | cons r rs ih =>
    rw [rowsValue, Nat.add_comm, Nat.testBit_two_pow_mul_add _ r.isLt]
    cases py with
    | zero => simp [hx, BitVec.getLsbD]
    | succ py =>
      have above : ¬ (py + 1) * 64 + px < 64 := by omega
      have below : (py + 1) * 64 + px - 64 = py * 64 + px := by omega
      rw [if_neg above, below, ih, List.getElem?_cons_succ]

theorem fbOut_getLsbD (s : State) {py px : Nat} (hy : py < 32) (hx : px < 64) :
    s.fbOut.getLsbD (py * 64 + px) = s.pixel py px := by
  have inRange : py * 64 + px < 2048 := by omega
  rw [State.fbOut, BitVec.getLsbD_ofNat, rowsValue_testBit _ _ hx, State.pixel, pixelOf]
  simp [inRange]

/-! ### The fault output -/

/-- The fault that a code stands for (R271). -/
def faultOfCode (b : BitVec 3) : Option FaultKind :=
  match b.toNat with
  | 1 => some .outOfBounds
  | 2 => some .romTooLarge
  | 3 => some .stackOverflow
  | 4 => some .stackUnderflow
  | 5 => some .invalidRegister
  | 6 => some .invalidKey
  | _ => none

/-- The code of a fault or of none. -/
def codeOfFault (f : Option FaultKind) : BitVec 3 := f.elim 0 faultCode

theorem faultOfCode_codeOfFault : Function.LeftInverse faultOfCode codeOfFault := by
  rintro (_ | k)
  · rfl
  · cases k <;> rfl

theorem faultOut_eq (s : State) : s.faultOut = codeOfFault s.fault := by
  cases hf : s.fault <;> simp [State.faultOut, codeOfFault, hf]

/-- The output shows a code exactly when the fault is the code's: a code can be read back. -/
theorem faultOut_eq_iff (s : State) (f : Option FaultKind) : s.faultOut = codeOfFault f ↔ s.fault = f := by
  rw [faultOut_eq, faultOfCode_codeOfFault.injective.eq_iff]

/-- Settles O51: the framebuffer bit by bit, and the fault output by its codes. -/
theorem outputsShowTheState : Obligations.OutputsShowTheState := fun s =>
  ⟨fun _ _ => fbOut_getLsbD s, soundOn_iff s, rfl, faultOut_eq_iff s none, faultOut_eq_iff s (some .outOfBounds),
    faultOut_eq_iff s (some .romTooLarge), faultOut_eq_iff s (some .stackOverflow), faultOut_eq_iff s (some .stackUnderflow),
    faultOut_eq_iff s (some .invalidRegister), faultOut_eq_iff s (some .invalidKey),
    fun s' h => (faultOut_eq_iff s s'.fault).mp (h.trans (faultOut_eq s'))⟩

end Sys2Proof.Machine
end
